-- ==== Sys2Proof/Word.lean ====
section
/-! DEFINITION. The plain types of the decoder block: its 32-bit word (R6 `WORD_WIDTH`, R8), its 5-bit
register index (R6 `REG_INDEX_WIDTH`, R107) and the text its records render to (R11). -/

namespace Sys2Proof

/-- A word `w`: 32 bits, bit 31 the most significant (R8); also an address tag, since `ADDR_WIDTH = 32` (R6). -/
abbrev Word := BitVec 32

/-- A register index, naming one of `R0`..`R31` (R107). -/
abbrev RegIndex := BitVec 5

/-- Output text (R11), one character after another; a line carries no terminator (R664). -/
abbrev Text := List Char

end Sys2Proof
end

