-- ==== Sys2Proof/Config.lean ====
section
/-! DEFINITION. The implementation parameters of R6 and R106, and the values the spec leaves free.
A value the spec leaves OPEN is an opaque constant here: nothing can be proved of which value it is. -/

namespace Sys2Proof

/-- `R_FUNCT_EXTRA` (R6, R430): whether the function table holds the seven extra entries. -/
inductive RFunctExtra where
  | none
  | mips1
  deriving DecidableEq, Repr

/-- `HOST_BYTE_ORDER` (R202, D19, I10): which byte of a four-byte group the host puts in `w[31:24]`,
the first (`big`) or the last (`little`). DESIGN CHOICE: that these are its
values (log entry 9). -/
inductive ByteOrder where
  | big
  | little
  deriving DecidableEq, Repr, Inhabited

/-- The parameters, fixed for the lifetime of the block (R6, R106). `ADDR_WIDTH` and `WORD_WIDTH` are fixed at 32
by R6 and are the width of `Word`; `I_OPCODE_EXTRA` is fixed at the empty set by R6. -/
structure Params where
  /-- `CODE_BASE`: the address of the first word after reset. -/
  codeBase : Word
  /-- `DATA_THRESHOLD`: where the data region starts once BREAK has been seen. -/
  dataThreshold : Word
  /-- `R_FUNCT_EXTRA`. -/
  rFunctExtra : RFunctExtra
  /-- `HOST_BYTE_ORDER`, a parameter of the host beside the block. -/
  hostByteOrder : ByteOrder
  deriving DecidableEq, Repr

/-- The output ports whose value R112 leaves open in some step, as names under which a free value is drawn.
The ports `out_valid`, `out_fault` and `st_*` are never free and have no name here. -/
inductive FreePort where
  | outKind | outAddr | outWord | outFormat | outMnem | outForm | outNops
  | op0Kind | op1Kind | op2Kind | op0Reg | op1Reg | op2Reg | op0Val | op1Val | op2Val
  | fOpcode | fRs | fRt | fRd | fShamt | fFunct | fImm16 | fTarget26 | fSimm32 | fJaddr
  deriving DecidableEq, Repr

/-- `CODE_BASE`, OPEN (R6, D4, I4): any value. -/
opaque Config.codeBase : Word

/-- `DATA_THRESHOLD`, OPEN (R6, D5, I5): any value. -/
opaque Config.dataThreshold : Word

/-- `HOST_BYTE_ORDER`, OPEN (R202, D19, I10). -/
opaque Config.hostByteOrder : ByteOrder

/-- The value a port holds in a step in which R112 lets it hold any value (I1, D30). The first argument is the
state's draw counter, so that two steps never have to agree. DESIGN CHOICE, log entry 5. -/
opaque Config.freePort : Nat → FreePort → Word

/-- The parameters of the block that `State.reset` describes: the OPEN ones free, `R_FUNCT_EXTRA` at its
default `mips1` (R6, D11). DESIGN CHOICE, log entry 2. -/
def Config.params : Params where
  codeBase := Config.codeBase
  dataThreshold := Config.dataThreshold
  rFunctExtra := .mips1
  hostByteOrder := Config.hostByteOrder

end Sys2Proof
end

