-- ==== Sys2Proof/Syntax.lean ====
section
/-! DEFINITION. The syntax the block decodes a word into: the formats, the mnemonics (R113), the operand forms
(R340), the operands (R114), and ONE instruction type with a constructor for every row of the opcode table. -/

namespace Sys2Proof

/-- The three instruction formats (R302, R303, R304, R320). -/
inductive Format where
  | r
  | i
  | j
  deriving DecidableEq, Repr

/-- The mnemonics of R113, in the order of their ids. `brk` is BREAK. -/
inductive Mnemonic where
  | nop | sll | srl | sra | sllv | srlv | srav | jr | jalr | syscall
  | brk | mfhi | mthi | mflo | mtlo | mult | multu | div | divu | add
  | addu | sub | subu | and | or | xor | nor | slt | sltu | beq
  | bne | blez | bgtz | addi | addiu | slti | andi | ori | xori | lui
  | lb | lh | lw | lbu | lhu | sb | sh | sw | bltz | bgez
  | bltzal | bgezal | j | jal | unknown
  deriving DecidableEq, Repr

/-- The operand forms of R340, in the order of their ids. -/
inductive Form where
  | none | rdRtShamt | rdRtRs | rs | rdRs | rd | rdRsRt | rsRtSimm | rsSimm | rtRsSimm | rtUimm | rtMem | target
  deriving DecidableEq, Repr

/-- An operand of a decoded instruction (R114). Values are mathematical integers (R9). A slot that is unused is
absent from the operand list. -/
inductive Operand where
  /-- `Reg(n)`: a register name. -/
  | reg (n : RegIndex)
  /-- `Imm(v)`: a signed immediate. -/
  | imm (v : Int)
  /-- `UImm(v)`: an unsigned immediate or shift amount. -/
  | uimm (v : Nat)
  /-- `Mem(off, base)`: a signed byte offset from a base register. -/
  | mem (off : Int) (base : RegIndex)
  /-- `Addr(v)`: a jump address. -/
  | addr (v : Nat)
  deriving DecidableEq, Repr

/-- The decoded instruction of one word: the result of `decode(w)` in R350. -/
structure Decoded where
  format : Format
  mnem : Mnemonic
  form : Form
  operands : List Operand
  deriving DecidableEq, Repr

/-- The instructions: one constructor per row of the opcode table. A constructor carries every field of its format
that the row does not fix, those its operand form ignores (R361) among them, so that no bit of the word is lost:
the output record shows the whole word (R650). -/
inductive Instr where
  /-- NOP (R425). -/
  | nop
  /-- SLL (R401). -/
  | sll (rs rt rd shamt : RegIndex)
  /-- SRL (R402). -/
  | srl (rs rt rd shamt : RegIndex)
  /-- SRA (R403). -/
  | sra (rs rt rd shamt : RegIndex)
  /-- SLLV (R404). -/
  | sllv (rs rt rd shamt : RegIndex)
  /-- SRLV (R405). -/
  | srlv (rs rt rd shamt : RegIndex)
  /-- SRAV (R406). -/
  | srav (rs rt rd shamt : RegIndex)
  /-- JR (R407). -/
  | jr (rs rt rd shamt : RegIndex)
  /-- JALR (R408). -/
  | jalr (rs rt rd shamt : RegIndex)
  /-- SYSCALL (R410). -/
  | syscall (rs rt rd shamt : RegIndex)
  /-- BREAK (R411). -/
  | brk (rs rt rd shamt : RegIndex)
  /-- MFHI (R412). -/
  | mfhi (rs rt rd shamt : RegIndex)
  /-- MTHI (R413). -/
  | mthi (rs rt rd shamt : RegIndex)
  /-- MFLO (R414). -/
  | mflo (rs rt rd shamt : RegIndex)
  /-- MTLO (R415). -/
  | mtlo (rs rt rd shamt : RegIndex)
  /-- MULT (R431). -/
  | mult (rs rt rd shamt : RegIndex)
  /-- MULTU (R432). -/
  | multu (rs rt rd shamt : RegIndex)
  /-- DIV (R433). -/
  | div (rs rt rd shamt : RegIndex)
  /-- DIVU (R434). -/
  | divu (rs rt rd shamt : RegIndex)
  /-- ADD (R416). -/
  | add (rs rt rd shamt : RegIndex)
  /-- ADDU (R435). -/
  | addu (rs rt rd shamt : RegIndex)
  /-- SUB (R417). -/
  | sub (rs rt rd shamt : RegIndex)
  /-- SUBU (R436). -/
  | subu (rs rt rd shamt : RegIndex)
  /-- AND (R418). -/
  | and (rs rt rd shamt : RegIndex)
  /-- OR (R419). -/
  | or (rs rt rd shamt : RegIndex)
  /-- XOR (R420). -/
  | xor (rs rt rd shamt : RegIndex)
  /-- NOR (R421). -/
  | nor (rs rt rd shamt : RegIndex)
  /-- SLT (R422). -/
  | slt (rs rt rd shamt : RegIndex)
  /-- SLTU (R437). -/
  | sltu (rs rt rd shamt : RegIndex)
  /-- UNKNOWN (R426). -/
  | unknownR (rs rt rd shamt : RegIndex) (funct : BitVec 6)
  /-- BLTZ (R505). -/
  | bltz (rs : RegIndex) (imm : BitVec 16)
  /-- BGEZ (R506). -/
  | bgez (rs : RegIndex) (imm : BitVec 16)
  /-- BLTZAL (R507). -/
  | bltzal (rs : RegIndex) (imm : BitVec 16)
  /-- BGEZAL (R508). -/
  | bgezal (rs : RegIndex) (imm : BitVec 16)
  /-- UNKNOWN (R509). -/
  | unknownRegimm (rs rt : RegIndex) (imm : BitVec 16)
  /-- BEQ (R501). -/
  | beq (rs rt : RegIndex) (imm : BitVec 16)
  /-- BNE (R502). -/
  | bne (rs rt : RegIndex) (imm : BitVec 16)
  /-- BLEZ (R503). -/
  | blez (rs rt : RegIndex) (imm : BitVec 16)
  /-- BGTZ (R504). -/
  | bgtz (rs rt : RegIndex) (imm : BitVec 16)
  /-- ADDI (R515). -/
  | addi (rs rt : RegIndex) (imm : BitVec 16)
  /-- ADDIU (R516). -/
  | addiu (rs rt : RegIndex) (imm : BitVec 16)
  /-- SLTI (R517). -/
  | slti (rs rt : RegIndex) (imm : BitVec 16)
  /-- ANDI (R520). -/
  | andi (rs rt : RegIndex) (imm : BitVec 16)
  /-- ORI (R521). -/
  | ori (rs rt : RegIndex) (imm : BitVec 16)
  /-- XORI (R522). -/
  | xori (rs rt : RegIndex) (imm : BitVec 16)
  /-- LUI (R525). -/
  | lui (rs rt : RegIndex) (imm : BitVec 16)
  /-- LB (R530). -/
  | lb (rs rt : RegIndex) (imm : BitVec 16)
  /-- LH (R531). -/
  | lh (rs rt : RegIndex) (imm : BitVec 16)
  /-- LW (R532). -/
  | lw (rs rt : RegIndex) (imm : BitVec 16)
  /-- LBU (R533). -/
  | lbu (rs rt : RegIndex) (imm : BitVec 16)
  /-- LHU (R534). -/
  | lhu (rs rt : RegIndex) (imm : BitVec 16)
  /-- SB (R535). -/
  | sb (rs rt : RegIndex) (imm : BitVec 16)
  /-- SH (R536). -/
  | sh (rs rt : RegIndex) (imm : BitVec 16)
  /-- SW (R537). -/
  | sw (rs rt : RegIndex) (imm : BitVec 16)
  /-- J (R601). -/
  | j (target : BitVec 26)
  /-- JAL (R602). -/
  | jal (target : BitVec 26)
  /-- UNKNOWN (R540). -/
  | unknownI (opcode : BitVec 6) (rs rt : RegIndex) (imm : BitVec 16)
  deriving DecidableEq, Repr

end Sys2Proof
end

