-- ==== Sys2Proof/Machine/Tables.lean ====
section
/-! DEFINITION. The four mnemonic tables (R7, R330 to R333), the key assignment the decoder is configured with
(R334: every key but five is the standard MIPS encoding, from general knowledge; UNVERIFIED, log
entry 10), and their lookup (R10). -/

namespace Sys2Proof

/-- `RFUNCT`, the entries present under either value of `R_FUNCT_EXTRA` (R330). -/
def rfunctBase : List (BitVec 6 × Mnemonic) :=
  [(0x00#6, .sll), (0x02#6, .srl), (0x03#6, .sra), (0x04#6, .sllv), (0x06#6, .srlv),
   (0x07#6, .srav), (0x08#6, .jr), (0x09#6, .jalr), (0x0C#6, .syscall), (0x0D#6, .brk),
   (0x10#6, .mfhi), (0x11#6, .mthi), (0x12#6, .mflo), (0x13#6, .mtlo), (0x20#6, .add),
   (0x22#6, .sub), (0x24#6, .and), (0x25#6, .or), (0x26#6, .xor), (0x27#6, .nor),
   (0x2A#6, .slt)]

/-- `RFUNCT`, the entries marked extra (R330, D11). -/
def rfunctMips1 : List (BitVec 6 × Mnemonic) :=
  [(0x18#6, .mult), (0x19#6, .multu), (0x1A#6, .div), (0x1B#6, .divu), (0x21#6, .addu),
   (0x23#6, .subu), (0x2B#6, .sltu)]

/-- `RFUNCT`, keyed by `funct` (R330). -/
def rfunctTable : RFunctExtra → List (BitVec 6 × Mnemonic)
  | .none => rfunctBase
  | .mips1 => rfunctBase ++ rfunctMips1

/-- The opcode of the REGIMM placeholder (R331, R332). -/
def regimmOpcode : BitVec 6 := 0x01#6

/-- `IOP`, keyed by opcode (R331), less its placeholder `regimmOpcode`; `I_OPCODE_EXTRA` adds nothing (R6, D12). -/
def iopTable : List (BitVec 6 × Mnemonic) :=
  [(0x04#6, .beq), (0x05#6, .bne), (0x06#6, .blez), (0x07#6, .bgtz), (0x08#6, .addi),
   (0x09#6, .addiu), (0x0A#6, .slti), (0x0C#6, .andi), (0x0D#6, .ori), (0x0E#6, .xori),
   (0x0F#6, .lui), (0x20#6, .lb), (0x21#6, .lh), (0x23#6, .lw), (0x24#6, .lbu),
   (0x25#6, .lhu), (0x28#6, .sb), (0x29#6, .sh), (0x2B#6, .sw)]

/-- `REGIMM`, keyed by `rt` (R332). -/
def regimmTable : List (BitVec 5 × Mnemonic) :=
  [(0x00#5, .bltz), (0x01#5, .bgez), (0x10#5, .bltzal), (0x11#5, .bgezal)]

/-- `JOP`, keyed by opcode (R333). -/
def jopTable : List (BitVec 6 × Mnemonic) :=
  [(0x02#6, .j), (0x03#6, .jal)]

/-- `lookup_T(k)` of R10: the mnemonic stored at `k`, or UNKNOWN where the key is absent. -/
def lookupKey {n : Nat} : List (BitVec n × Mnemonic) → BitVec n → Mnemonic
  | [], _ => .unknown
  | (key, m) :: rest, k => if k = key then m else lookupKey rest k

/-- Whether `k` is a key of the table (R360). -/
def isKey {n : Nat} (table : List (BitVec n × Mnemonic)) (k : BitVec n) : Bool :=
  table.any fun row => k == row.1

/-- The format an opcode selects (R320, R321): total, with no error. -/
def formatOfOpcode (op : BitVec 6) : Format :=
  if op = 0#6 then .r else if isKey jopTable op then .j else .i

end Sys2Proof
end

