-- ==== Sys2Proof/WellFormed.lean ====
section
/-! DEFINITION. Which instruction terms stand for a word (R360, R351, R430): the terms the decoder can answer. -/

namespace Sys2Proof

/-- Whether the function table holds the extra entries (R430). -/
def hasExtra : RFunctExtra → Bool
  | .none => false
  | .mips1 => true

/-- An instruction term is well formed under a value of `R_FUNCT_EXTRA` when some word decodes to it: an SLL is not
the all-zero word, which is NOP (R351); the seven extra instructions need `mips1` (R430); and an UNKNOWN holds no key
of the table that failed to resolve it (R360). -/
def wellFormed (x : RFunctExtra) : Instr → Bool
  | .nop => true
  | .sll rs rt rd shamt => !(rs == 0 && rt == 0 && rd == 0 && shamt == 0)
  | .srl _ _ _ _ => true
  | .sra _ _ _ _ => true
  | .sllv _ _ _ _ => true
  | .srlv _ _ _ _ => true
  | .srav _ _ _ _ => true
  | .jr _ _ _ _ => true
  | .jalr _ _ _ _ => true
  | .syscall _ _ _ _ => true
  | .brk _ _ _ _ => true
  | .mfhi _ _ _ _ => true
  | .mthi _ _ _ _ => true
  | .mflo _ _ _ _ => true
  | .mtlo _ _ _ _ => true
  | .mult _ _ _ _ => hasExtra x
  | .multu _ _ _ _ => hasExtra x
  | .div _ _ _ _ => hasExtra x
  | .divu _ _ _ _ => hasExtra x
  | .add _ _ _ _ => true
  | .addu _ _ _ _ => hasExtra x
  | .sub _ _ _ _ => true
  | .subu _ _ _ _ => hasExtra x
  | .and _ _ _ _ => true
  | .or _ _ _ _ => true
  | .xor _ _ _ _ => true
  | .nor _ _ _ _ => true
  | .slt _ _ _ _ => true
  | .sltu _ _ _ _ => hasExtra x
  | .unknownR _ _ _ _ funct => !isKey (rfunctTable x) funct
  | .bltz _ _ => true
  | .bgez _ _ => true
  | .bltzal _ _ => true
  | .bgezal _ _ => true
  | .unknownRegimm _ rt _ => !isKey regimmTable rt
  | .beq _ _ _ => true
  | .bne _ _ _ => true
  | .blez _ _ _ => true
  | .bgtz _ _ _ => true
  | .addi _ _ _ => true
  | .addiu _ _ _ => true
  | .slti _ _ _ => true
  | .andi _ _ _ => true
  | .ori _ _ _ => true
  | .xori _ _ _ => true
  | .lui _ _ _ => true
  | .lb _ _ _ => true
  | .lh _ _ _ => true
  | .lw _ _ _ => true
  | .lbu _ _ _ => true
  | .lhu _ _ _ => true
  | .sb _ _ _ => true
  | .sh _ _ _ => true
  | .sw _ _ _ => true
  | .j _ => true
  | .jal _ => true
  | .unknownI opcode _ _ _ => formatOfOpcode opcode == .i && opcode != regimmOpcode && !isKey iopTable opcode

end Sys2Proof
end

