-- ==== Sys2Proof/Decode.lean ====
section
/-! DEFINITION. The field extractor (R300, R301), the format dispatcher (R320), the decoder from a word to an
instruction (R350: total, it rejects no word) and the encoder back, written from each instruction's own
"Encoding" line in R401 to R602. -/

namespace Sys2Proof

/-- `opcode = w[31:26]` (R300). -/
def opcodeOf (w : Word) : BitVec 6 := w.extractLsb' 26 6
/-- `rs = w[25:21]` (R300). -/
def rsOf (w : Word) : RegIndex := w.extractLsb' 21 5
/-- `rt = w[20:16]` (R300). -/
def rtOf (w : Word) : RegIndex := w.extractLsb' 16 5
/-- `rd = w[15:11]` (R300). -/
def rdOf (w : Word) : RegIndex := w.extractLsb' 11 5
/-- `shamt = w[10:6]` (R300). -/
def shamtOf (w : Word) : RegIndex := w.extractLsb' 6 5
/-- `funct = w[5:0]` (R300). -/
def functOf (w : Word) : BitVec 6 := w.extractLsb' 0 6
/-- `imm16 = w[15:0]` (R300). -/
def imm16Of (w : Word) : BitVec 16 := w.extractLsb' 0 16
/-- `target26 = w[25:0]` (R300). -/
def target26Of (w : Word) : BitVec 26 := w.extractLsb' 0 26

/-- The format of a word (R320). -/
def formatOf (w : Word) : Format := formatOfOpcode (opcodeOf w)

/-- Whether every field of a register-format word is zero: the NOP override (R351). -/
def nopOverride (w : Word) : Bool :=
  functOf w == 0 && rsOf w == 0 && rtOf w == 0 && rdOf w == 0 && shamtOf w == 0

/-- The mnemonic of a word (R350, R351, R352). -/
def mnemonicOf (x : RFunctExtra) (w : Word) : Mnemonic :=
  match formatOf w with
  | .r => if nopOverride w then .nop else lookupKey (rfunctTable x) (functOf w)
  | .j => lookupKey jopTable (opcodeOf w)
  | .i => if opcodeOf w = regimmOpcode then lookupKey regimmTable (rtOf w) else lookupKey iopTable (opcodeOf w)

/-- The register-format instruction a mnemonic of `RFUNCT` (or NOP) names; any other mnemonic is UNKNOWN (R426). -/
def registerInstr (m : Mnemonic) (rs rt rd shamt : RegIndex) (funct : BitVec 6) : Instr :=
  match m with
  | .nop => .nop
  | .sll => .sll rs rt rd shamt
  | .srl => .srl rs rt rd shamt
  | .sra => .sra rs rt rd shamt
  | .sllv => .sllv rs rt rd shamt
  | .srlv => .srlv rs rt rd shamt
  | .srav => .srav rs rt rd shamt
  | .jr => .jr rs rt rd shamt
  | .jalr => .jalr rs rt rd shamt
  | .syscall => .syscall rs rt rd shamt
  | .brk => .brk rs rt rd shamt
  | .mfhi => .mfhi rs rt rd shamt
  | .mthi => .mthi rs rt rd shamt
  | .mflo => .mflo rs rt rd shamt
  | .mtlo => .mtlo rs rt rd shamt
  | .mult => .mult rs rt rd shamt
  | .multu => .multu rs rt rd shamt
  | .div => .div rs rt rd shamt
  | .divu => .divu rs rt rd shamt
  | .add => .add rs rt rd shamt
  | .addu => .addu rs rt rd shamt
  | .sub => .sub rs rt rd shamt
  | .subu => .subu rs rt rd shamt
  | .and => .and rs rt rd shamt
  | .or => .or rs rt rd shamt
  | .xor => .xor rs rt rd shamt
  | .nor => .nor rs rt rd shamt
  | .slt => .slt rs rt rd shamt
  | .sltu => .sltu rs rt rd shamt
  | _ => .unknownR rs rt rd shamt funct

/-- The instruction a mnemonic of `REGIMM` names; any other is UNKNOWN, whose form shows `rt` (R509). -/
def regimmInstr (m : Mnemonic) (rs rt : RegIndex) (imm : BitVec 16) : Instr :=
  match m with
  | .bltz => .bltz rs imm
  | .bgez => .bgez rs imm
  | .bltzal => .bltzal rs imm
  | .bgezal => .bgezal rs imm
  | _ => .unknownRegimm rs rt imm

/-- The instruction a mnemonic of `IOP` names; any other is UNKNOWN (R540). -/
def immediateInstr (m : Mnemonic) (opcode : BitVec 6) (rs rt : RegIndex) (imm : BitVec 16) : Instr :=
  match m with
  | .beq => .beq rs rt imm
  | .bne => .bne rs rt imm
  | .blez => .blez rs rt imm
  | .bgtz => .bgtz rs rt imm
  | .addi => .addi rs rt imm
  | .addiu => .addiu rs rt imm
  | .slti => .slti rs rt imm
  | .andi => .andi rs rt imm
  | .ori => .ori rs rt imm
  | .xori => .xori rs rt imm
  | .lui => .lui rs rt imm
  | .lb => .lb rs rt imm
  | .lh => .lh rs rt imm
  | .lw => .lw rs rt imm
  | .lbu => .lbu rs rt imm
  | .lhu => .lhu rs rt imm
  | .sb => .sb rs rt imm
  | .sh => .sh rs rt imm
  | .sw => .sw rs rt imm
  | _ => .unknownI opcode rs rt imm

/-- The instruction a mnemonic of `JOP` names (R600); the dispatcher sends no other here (R333). -/
def jumpInstr (m : Mnemonic) (target : BitVec 26) : Instr :=
  match m with
  | .jal => .jal target
  | _ => .j target

/-- The decoder: every word is an instruction (R320, R350). -/
def decode (x : RFunctExtra) (w : Word) : Instr :=
  match formatOf w with
  | .r => registerInstr (mnemonicOf x w) (rsOf w) (rtOf w) (rdOf w) (shamtOf w) (functOf w)
  | .j => jumpInstr (mnemonicOf x w) (target26Of w)
  | .i =>
    if opcodeOf w = regimmOpcode then regimmInstr (mnemonicOf x w) (rsOf w) (rtOf w) (imm16Of w)
    else immediateInstr (mnemonicOf x w) (opcodeOf w) (rsOf w) (rtOf w) (imm16Of w)

/-- A register-format word (R302): opcode 0, then `rs`, `rt`, `rd`, `shamt`, `funct`. -/
def registerWord (rs rt rd shamt : RegIndex) (funct : BitVec 6) : Word :=
  0#6 ++ rs ++ rt ++ rd ++ shamt ++ funct

/-- An immediate-format word (R303). -/
def immediateWord (opcode : BitVec 6) (rs rt : RegIndex) (imm : BitVec 16) : Word :=
  opcode ++ rs ++ rt ++ imm

/-- A jump-format word (R304). -/
def jumpWord (opcode : BitVec 6) (target : BitVec 26) : Word :=
  opcode ++ target

/-- The encoder: the word of an instruction term, with the keys of its own rule. -/
def encode : Instr → Word
  | .nop => 0x00000000#32
  | .sll rs rt rd shamt => registerWord rs rt rd shamt 0x00#6
  | .srl rs rt rd shamt => registerWord rs rt rd shamt 0x02#6
  | .sra rs rt rd shamt => registerWord rs rt rd shamt 0x03#6
  | .sllv rs rt rd shamt => registerWord rs rt rd shamt 0x04#6
  | .srlv rs rt rd shamt => registerWord rs rt rd shamt 0x06#6
  | .srav rs rt rd shamt => registerWord rs rt rd shamt 0x07#6
  | .jr rs rt rd shamt => registerWord rs rt rd shamt 0x08#6
  | .jalr rs rt rd shamt => registerWord rs rt rd shamt 0x09#6
  | .syscall rs rt rd shamt => registerWord rs rt rd shamt 0x0C#6
  | .brk rs rt rd shamt => registerWord rs rt rd shamt 0x0D#6
  | .mfhi rs rt rd shamt => registerWord rs rt rd shamt 0x10#6
  | .mthi rs rt rd shamt => registerWord rs rt rd shamt 0x11#6
  | .mflo rs rt rd shamt => registerWord rs rt rd shamt 0x12#6
  | .mtlo rs rt rd shamt => registerWord rs rt rd shamt 0x13#6
  | .mult rs rt rd shamt => registerWord rs rt rd shamt 0x18#6
  | .multu rs rt rd shamt => registerWord rs rt rd shamt 0x19#6
  | .div rs rt rd shamt => registerWord rs rt rd shamt 0x1A#6
  | .divu rs rt rd shamt => registerWord rs rt rd shamt 0x1B#6
  | .add rs rt rd shamt => registerWord rs rt rd shamt 0x20#6
  | .addu rs rt rd shamt => registerWord rs rt rd shamt 0x21#6
  | .sub rs rt rd shamt => registerWord rs rt rd shamt 0x22#6
  | .subu rs rt rd shamt => registerWord rs rt rd shamt 0x23#6
  | .and rs rt rd shamt => registerWord rs rt rd shamt 0x24#6
  | .or rs rt rd shamt => registerWord rs rt rd shamt 0x25#6
  | .xor rs rt rd shamt => registerWord rs rt rd shamt 0x26#6
  | .nor rs rt rd shamt => registerWord rs rt rd shamt 0x27#6
  | .slt rs rt rd shamt => registerWord rs rt rd shamt 0x2A#6
  | .sltu rs rt rd shamt => registerWord rs rt rd shamt 0x2B#6
  | .unknownR rs rt rd shamt funct => registerWord rs rt rd shamt funct
  | .bltz rs imm => immediateWord 0x01#6 rs 0x00#5 imm
  | .bgez rs imm => immediateWord 0x01#6 rs 0x01#5 imm
  | .bltzal rs imm => immediateWord 0x01#6 rs 0x10#5 imm
  | .bgezal rs imm => immediateWord 0x01#6 rs 0x11#5 imm
  | .unknownRegimm rs rt imm => immediateWord 0x01#6 rs rt imm
  | .beq rs rt imm => immediateWord 0x04#6 rs rt imm
  | .bne rs rt imm => immediateWord 0x05#6 rs rt imm
  | .blez rs rt imm => immediateWord 0x06#6 rs rt imm
  | .bgtz rs rt imm => immediateWord 0x07#6 rs rt imm
  | .addi rs rt imm => immediateWord 0x08#6 rs rt imm
  | .addiu rs rt imm => immediateWord 0x09#6 rs rt imm
  | .slti rs rt imm => immediateWord 0x0A#6 rs rt imm
  | .andi rs rt imm => immediateWord 0x0C#6 rs rt imm
  | .ori rs rt imm => immediateWord 0x0D#6 rs rt imm
  | .xori rs rt imm => immediateWord 0x0E#6 rs rt imm
  | .lui rs rt imm => immediateWord 0x0F#6 rs rt imm
  | .lb rs rt imm => immediateWord 0x20#6 rs rt imm
  | .lh rs rt imm => immediateWord 0x21#6 rs rt imm
  | .lw rs rt imm => immediateWord 0x23#6 rs rt imm
  | .lbu rs rt imm => immediateWord 0x24#6 rs rt imm
  | .lhu rs rt imm => immediateWord 0x25#6 rs rt imm
  | .sb rs rt imm => immediateWord 0x28#6 rs rt imm
  | .sh rs rt imm => immediateWord 0x29#6 rs rt imm
  | .sw rs rt imm => immediateWord 0x2B#6 rs rt imm
  | .j target => jumpWord 0x02#6 target
  | .jal target => jumpWord 0x03#6 target
  | .unknownI opcode rs rt imm => immediateWord opcode rs rt imm

/-- The low `nbits` bits of `w`, as a word. -/
def tableWord (nbits w : Nat) : Word := BitVec.ofNat 32 (w % 2 ^ nbits)

/-- The instruction the decoder reads from a table row's bits, numbered as the opcode table numbers them. A word is
32 bits (R300), so a row of more bits is no word; the extra function codes are those of the default (R6). -/
def decodeTableWord (nbits w : Nat) : Option Instr :=
  if nbits ≤ 32 then some (decode Config.params.rFunctExtra (tableWord nbits w)) else none

end Sys2Proof
end

