-- ==== Sys2Proof/Machine/Operands.lean ====
section
/-! DEFINITION. The sign-extender and the operand assemblers (R310 to R313), the form of each mnemonic (R341), the
instruction-field multiplexer (R340) and the whole combinational decode of a word (R350). -/

namespace Sys2Proof.Machine

/-- `sval16(v)` (R9): `v - 0x10000` from `0x8000` up, else `v`. -/
def sval16 (v : BitVec 16) : Int :=
  if 0x8000 ≤ v.toNat then (v.toNat : Int) - 0x10000 else v.toNat

/-- `simm` (R310). -/
def simm (imm : BitVec 16) : Int := sval16 imm

/-- The port `f_simm32`: `sext_32(imm16)` (R310). -/
def simm32 (imm : BitVec 16) : Word := imm.signExtend 32

/-- `uimm` (R311), LUI's immediate. -/
def uimm (imm : BitVec 16) : Nat := imm.toNat

/-- `jaddr = target26 * 4` (R312). -/
def jaddr (target : BitVec 26) : Nat := target.toNat * 4

/-- The operand form of a resolved mnemonic, by format (R341). A mnemonic the format's tables do not hold takes the
format's form for UNKNOWN. -/
def formFor (fmt : Format) (m : Mnemonic) : Form :=
  match fmt with
  | .r =>
    match m with
    | .nop | .syscall | .brk => .none
    | .sll | .srl | .sra => .rdRtShamt
    | .sllv | .srlv | .srav => .rdRtRs
    | .jr | .mthi | .mtlo => .rs
    | .jalr => .rdRs
    | .mfhi | .mflo => .rd
    | _ => .rdRsRt
  | .i =>
    match m with
    | .beq | .bne => .rsRtSimm
    | .bltz | .bgez | .bltzal | .bgezal | .blez | .bgtz => .rsSimm
    | .lui => .rtUimm
    | .lb | .lh | .lw | .lbu | .lhu | .sb | .sh | .sw => .rtMem
    | _ => .rtRsSimm
  | .j => .target

/-- `MUX` (R340): the fields of the word a form routes to the operand slots, slot 0 first. -/
def mux (form : Form) (w : Word) : List Operand :=
  match form with
  | .none => []
  | .rdRtShamt => [.reg (rdOf w), .reg (rtOf w), .uimm (shamtOf w).toNat]
  | .rdRtRs => [.reg (rdOf w), .reg (rtOf w), .reg (rsOf w)]
  | .rs => [.reg (rsOf w)]
  | .rdRs => [.reg (rdOf w), .reg (rsOf w)]
  | .rd => [.reg (rdOf w)]
  | .rdRsRt => [.reg (rdOf w), .reg (rsOf w), .reg (rtOf w)]
  | .rsRtSimm => [.reg (rsOf w), .reg (rtOf w), .imm (simm (imm16Of w))]
  | .rsSimm => [.reg (rsOf w), .imm (simm (imm16Of w))]
  | .rtRsSimm => [.reg (rtOf w), .reg (rsOf w), .imm (simm (imm16Of w))]
  | .rtUimm => [.reg (rtOf w), .uimm (uimm (imm16Of w))]
  | .rtMem => [.reg (rtOf w), .mem (simm (imm16Of w)) (rsOf w)]
  | .target => [.addr (jaddr (target26Of w))]

/-- `decode(w)` of R350: format, mnemonic, form and operands, from the word and the parameters alone (R210). -/
def decodeFields (x : RFunctExtra) (w : Word) : Decoded :=
  let fmt := formatOf w
  let m := mnemonicOf x w
  let form := formFor fmt m
  { format := fmt, mnem := m, form := form, operands := mux form w }

end Sys2Proof.Machine
end

