-- ==== Sys2Proof/Machine/State.lean ====
section
/-! DEFINITION. The state of the decoder block (R100), beside it the parameters it is built with (R106), the inputs
the host has still to present and the records the block has emitted, and the reasons a step can stop (R801, R901). -/

namespace Sys2Proof.Machine

/-- The section tracker's state (R103): `CODE` is 0 on a port, `DATA` is 1 (R100). -/
inductive SectionMode where
  | code
  | data
  deriving DecidableEq, Repr

/-- An output record (R650), carrying the address it was processed at and its word. -/
inductive Record where
  /-- A word decoded as an instruction. -/
  | code (addr word : Word) (format : Format) (mnem : Mnemonic) (form : Form) (operands : List Operand)
  /-- A word of the data section. -/
  | data (addr word : Word)
  deriving DecidableEq, Repr

/-- Which end of the input and output the host could not reach (R801 `InputAccess`). -/
inductive AccessEnd where
  | source
  | destination
  deriving DecidableEq, Repr

/-- What one step is given. `ports` is a clock edge with the block's own input ports (R111); the others are the host
duties of R910 that precede the ports. -/
inductive Stimulus where
  /-- One edge of `clk` with `rst`, `in_valid` and `in_word` at these values (R111). -/
  | ports (rst inValid : Bool) (inWord : Word)
  /-- The host takes one record of its input text (R910 items 4 to 6). -/
  | record (text : Text)
  /-- The host takes one word from a byte store, in the order the bytes are stored (R202). -/
  | bytes (b0 b1 b2 b3 : BitVec 8)
  /-- The host cannot read its source or cannot write its destination (R910 items 3 and 8). -/
  | accessFailure (which : AccessEnd)
  deriving DecidableEq, Repr

/-- The state. The first four fields are the four state elements of the block and there are no others (R100). The
rest is the model's own: the parameters, fixed for the machine's lifetime (R106); whether a reset has happened
(R901); and the host's side of the ports, which the block does not hold (R910).
DESIGN CHOICE, log entries 1 and 3. -/
structure State where
  /-- The address of the next word to be processed (R101). -/
  addr : Word
  /-- Set once a BREAK has been decoded as code (R102). -/
  sentinel : Bool
  /-- The section tracker's state (R103). -/
  mode : SectionMode
  /-- Sticky: the address counter has passed its top (R104). -/
  ovf : Bool
  /-- The block's parameters, which no step writes (R106). -/
  params : Params
  /-- Whether a reset step has been taken: the launch premise `reset_done` (R901). -/
  resetDone : Bool
  /-- What the host will present, next first (R209, R910). DESIGN CHOICE, log entry 4. -/
  pending : List Stimulus
  /-- The records emitted since the last reset, oldest first: the listing the host collects (R655, R910 item 7). -/
  listing : List Record
  /-- The listings of the runs that earlier resets ended, oldest first (R900, D23). -/
  pastListings : List (List Record)
  /-- How many records of text the host has taken since the last reset, blank ones apart (R801).
  DESIGN CHOICE, log entry 7. -/
  recordsTaken : Nat
  /-- Counts steps: the argument under which a free port value is drawn (R112, I1). No spec state.
  DESIGN CHOICE, log entry 5. -/
  draws : Nat
  deriving DecidableEq, Repr

/-- The reasons a run ends abnormally: exactly those of R801. -/
inductive Fault where
  /-- R802: a word is presented while `ovf = 1`. Raised by the block (`addressOverflow` in Machine/Ops.lean); it
  records the state (R801). Safe: the spec ends the run here. -/
  | addressOverflow (addr : Word) (ovf : Bool)
  /-- R803: a trimmed, non-blank record is not 32 characters from `0` and `1`. Raised by the host (`takeRecord` in
  Machine/HostFront.lean); it records the record's ordinal and text (R801). Safe: the spec fails the run. -/
  | malformedRecord (ordinal : Nat) (text : Text)
  /-- R801: the host's source is unreadable or its destination unwritable. Raised by the host (`presentStimulus` in
  Machine/HostFront.lean). Safe: the spec ends the run here. -/
  | inputAccess (which : AccessEnd)
  deriving DecidableEq, Repr

/-- The refusals. -/
inductive Refusal where
  /-- An instruction with no meaning yet. No arm of `exec` answers it. Safe. -/
  | notModelled (mnemonic : String)
  /-- R901: a word presented before any reset has no defined outcome, and a model refuses it. Raised by `blockStep` in
  Machine/Tracker.lean. Safe. -/
  | wordBeforeReset
  deriving DecidableEq, Repr

/-- The machine right after a reset step (R120, R900) that is the first step taken (R901): `CODE_BASE` in the address
counter, the three flags clear, nothing emitted and nothing yet to present (log entries 2, 3 and 4). -/
def State.reset : State where
  addr := Config.params.codeBase
  sentinel := false
  mode := .code
  ovf := false
  params := Config.params
  resetDone := true
  pending := []
  listing := []
  pastListings := []
  recordsTaken := 0
  draws := 0

end Sys2Proof.Machine
end

