-- ==== Sys2Proof/Machine/Listing.lean ====
section
/-! DEFINITION. The rendering of an output record as a line of text (R660 to R664, R107, R363). -/

namespace Sys2Proof.Machine

/-- `dec(n)` of R9 for a nonnegative integer: decimal, no leading zeros (D14). -/
def decNat (n : Nat) : Text := Nat.toDigits 10 n

/-- `dec(n)` (R9, R660): a leading `-` on a negative integer, no `+`. -/
def dec : Int → Text
  | .ofNat n => decNat n
  | .negSucc n => '-' :: decNat (n + 1)

/-- The register-name table (R107): `"R" + dec(n)` for every index, with no alias. -/
def registerName (n : RegIndex) : Text := 'R' :: decNat n.toNat

/-- The spelling of a mnemonic (R11, R113). -/
def mnemonicText : Mnemonic → Text
  | .nop => "NOP".toList
  | .sll => "SLL".toList
  | .srl => "SRL".toList
  | .sra => "SRA".toList
  | .sllv => "SLLV".toList
  | .srlv => "SRLV".toList
  | .srav => "SRAV".toList
  | .jr => "JR".toList
  | .jalr => "JALR".toList
  | .syscall => "SYSCALL".toList
  | .brk => "BREAK".toList
  | .mfhi => "MFHI".toList
  | .mthi => "MTHI".toList
  | .mflo => "MFLO".toList
  | .mtlo => "MTLO".toList
  | .mult => "MULT".toList
  | .multu => "MULTU".toList
  | .div => "DIV".toList
  | .divu => "DIVU".toList
  | .add => "ADD".toList
  | .addu => "ADDU".toList
  | .sub => "SUB".toList
  | .subu => "SUBU".toList
  | .and => "AND".toList
  | .or => "OR".toList
  | .xor => "XOR".toList
  | .nor => "NOR".toList
  | .slt => "SLT".toList
  | .sltu => "SLTU".toList
  | .beq => "BEQ".toList
  | .bne => "BNE".toList
  | .blez => "BLEZ".toList
  | .bgtz => "BGTZ".toList
  | .addi => "ADDI".toList
  | .addiu => "ADDIU".toList
  | .slti => "SLTI".toList
  | .andi => "ANDI".toList
  | .ori => "ORI".toList
  | .xori => "XORI".toList
  | .lui => "LUI".toList
  | .lb => "LB".toList
  | .lh => "LH".toList
  | .lw => "LW".toList
  | .lbu => "LBU".toList
  | .lhu => "LHU".toList
  | .sb => "SB".toList
  | .sh => "SH".toList
  | .sw => "SW".toList
  | .bltz => "BLTZ".toList
  | .bgez => "BGEZ".toList
  | .bltzal => "BLTZAL".toList
  | .bgezal => "BGEZAL".toList
  | .j => "J".toList
  | .jal => "JAL".toList
  | .unknown => "UNKNOWN".toList

/-- The text of one operand (R660, R114). -/
def operandText : Operand → Text
  | .reg n => registerName n
  | .imm v => '#' :: dec v
  | .uimm v => '#' :: decNat v
  | .mem off base => '#' :: (dec off ++ "(".toList ++ registerName base ++ ")".toList)
  | .addr v => '#' :: decNat v

/-- The operand list joined by a comma and one space, in slot order (R660). -/
def operandsText : List Operand → Text
  | [] => []
  | [op] => operandText op
  | op :: rest => operandText op ++ ", ".toList ++ operandsText rest

/-- The character of one bit. -/
def bitChar (b : Bool) : Char := if b then '1' else '0'

/-- `raw(w)` (R663): the 32 characters of the word, `w[31]` first (R8). -/
def rawBits (w : Word) : Text := (List.range 32).map fun k => bitChar (w.getLsbD (31 - k))

/-- `grouped(w)` (R662): the same characters with one space at each boundary of the 6/5/5/5/5/6 split. -/
def groupedBits (w : Word) : Text :=
  let c := rawBits w
  c.take 6 ++ [' '] ++ (c.drop 6).take 5 ++ [' '] ++ (c.drop 11).take 5 ++ [' '] ++ (c.drop 16).take 5 ++ [' ']
    ++ (c.drop 21).take 5 ++ [' '] ++ c.drop 26

/-- An instruction's spelling (R363): the mnemonic and, if it has operands, a tab and the operands. -/
def instructionText (m : Mnemonic) (ops : List Operand) : Text :=
  mnemonicText m ++ if ops.isEmpty then [] else '\t' :: operandsText ops

/-- `code_line(r)` (R661). -/
def codeLine (addr word : Word) (m : Mnemonic) (ops : List Operand) : Text :=
  groupedBits word ++ "\t".toList ++ decNat addr.toNat ++ "\t".toList ++ instructionText m ops

/-- `data_line(r)` (R663): six spaces before the tab (D16), the value unsigned (R654). -/
def dataLine (addr word : Word) : Text :=
  rawBits word ++ "      ".toList ++ "\t".toList ++ decNat addr.toNat ++ "\t".toList ++ decNat word.toNat

/-- The line of a record (R661, R663), without a terminator (R664). -/
def recordLine : Record → Text
  | .code addr word _ m _ ops => codeLine addr word m ops
  | .data addr word => dataLine addr word

/-- The word a record carries (R650). -/
def recordWord : Record → Word
  | .code _ word _ _ _ _ => word
  | .data _ word => word

/-- The address a record carries (R650). -/
def recordAddr : Record → Word
  | .code addr _ _ _ _ _ => addr
  | .data addr _ => addr

/-- Whether a record is a Data record (R650). -/
def recordIsData : Record → Bool
  | .code .. => false
  | .data .. => true

/-- The result of a run: the rendered lines of its records, in order (R655, R912). -/
def listingLines (s : State) : List Text := s.listing.map recordLine

end Sys2Proof.Machine
end

