-- ==== Sys2Proof/Machine/Flags.lean ====
section
/-! DEFINITION. The block's flags. It has no condition codes (R108): its flags are `sentinel`, `mode` and `ovf`, and
these are the conditions they are set and read by. -/

namespace Sys2Proof.Machine

/-- Whether the address after `a` passes the counter's top: `a + 4 ≥ 2^ADDR_WIDTH` (R104, D6). -/
def passesTop (a : Word) : Bool := decide (2 ^ 32 ≤ a.toNat + 4)

/-- Whether the word about to be processed has reached the data threshold: `a >= DATA_THRESHOLD`, unsigned (R650, D7). -/
def thresholdReached (s : State) : Bool := decide (s.params.dataThreshold.toNat ≤ s.addr.toNat)

/-- Whether the word about to be processed is data: `is_data` of R650. -/
def isData (s : State) : Bool := s.mode == .data || (s.sentinel && thresholdReached s)

/-- The sentinel after a word decoded as code with mnemonic `m` (R102, R650): only BREAK sets it, nothing clears it. -/
def sentinelAfter (m : Mnemonic) (sentinel : Bool) : Bool := sentinel || m == .brk

end Sys2Proof.Machine
end

