-- ==== Sys2Proof/Machine/Ops.lean ====
section
/-! DEFINITION. The named operations every step is made of: emitting a record, advancing the address counter, the
code and data branches of R650, the reset step, and the one fault of the block. The block has no registers to read
and no memory (R110). It takes no exception and returns from none: it has no trap entry, saves nothing and jumps
nowhere (R800, R807, R808), so the shared operation at that place is the end of a run by `AddressOverflow`. -/

namespace Sys2Proof.Machine

/-- `emit` (R10): the step's single output record, appended to the listing (R655). -/
def State.emit (r : Record) (s : State) : State := { s with listing := s.listing ++ [r] }

/-- The address update at the end of a processed word (R101, R104, R650). -/
def State.advance (s : State) : State :=
  { s with addr := s.addr + 4#32, ovf := s.ovf || passesTop s.addr }

/-- The sentinel update of the code branch (R102, R650). -/
def State.noteMnemonic (m : Mnemonic) (s : State) : State := { s with sentinel := sentinelAfter m s.sentinel }

/-- `mode <- DATA` (R103, R650). -/
def State.enterData (s : State) : State := { s with mode := .data }

/-- The code branch of R650 for a word already decoded: emit the Code record, note BREAK, advance. -/
def codeWord (w : Word) (fmt : Format) (m : Mnemonic) (form : Form) (ops : List Operand) (s : State) : State :=
  ((s.emit (.code s.addr w fmt m form ops)).noteMnemonic m).advance

/-- The data branch of R650: emit the Data record, latch DATA, advance. The word is not decoded (R654). -/
def dataWord (w : Word) (s : State) : State := ((s.emit (.data s.addr w)).enterData).advance

/-- A reset step (R120, R900): the four state elements at their reset values, nothing emitted, and a new run begun.
The run it ends keeps its listing as it stands (D23); before the first reset there is no run to end (R901). -/
def resetBlock (s : State) : State :=
  { s with
    addr := s.params.codeBase, sentinel := false, mode := .code, ovf := false
    resetDone := true, listing := [], recordsTaken := 0
    pastListings := if s.resetDone then s.pastListings ++ [s.listing] else s.pastListings }

/-- `fault AddressOverflow` (R802): no record, no change of state; it records the state (R801).
DESIGN CHOICE: the outcome ends the run and holds no state, log entry 11. -/
def addressOverflow (s : State) : Host.Outcome State Fault Refusal := .fault (.addressOverflow s.addr s.ovf)

/-- One step's own bookkeeping: `rest` is what the host has still to present, and the draw counter moves on. -/
def State.tick (rest : List Stimulus) (s : State) : State := { s with pending := rest, draws := s.draws + 1 }

end Sys2Proof.Machine
end

