-- ==== Sys2Proof/Machine/Immediate.lean ====
section
/-! DEFINITION. The immediate format (R500 to R540), the REGIMM branches among it: the meaning of each of its
instructions, which is its decoded record. A branch offset is neither scaled nor added to anything (R500). -/

namespace Sys2Proof.Machine

/-- BLTZ (R505): `rs, #imm`, signed. -/
def execBltz (rs : RegIndex) (imm : BitVec 16) (s : State) : Host.Outcome State Fault Refusal :=
  .next (codeWord (encode (.bltz rs imm)) .i .bltz .rsSimm [.reg rs, .imm (simm imm)] s)

/-- BGEZ (R506): `rs, #imm`, signed. -/
def execBgez (rs : RegIndex) (imm : BitVec 16) (s : State) : Host.Outcome State Fault Refusal :=
  .next (codeWord (encode (.bgez rs imm)) .i .bgez .rsSimm [.reg rs, .imm (simm imm)] s)

/-- BLTZAL (R507): `rs, #imm`, signed. -/
def execBltzal (rs : RegIndex) (imm : BitVec 16) (s : State) : Host.Outcome State Fault Refusal :=
  .next (codeWord (encode (.bltzal rs imm)) .i .bltzal .rsSimm [.reg rs, .imm (simm imm)] s)

/-- BGEZAL (R508): `rs, #imm`, signed. -/
def execBgezal (rs : RegIndex) (imm : BitVec 16) (s : State) : Host.Outcome State Fault Refusal :=
  .next (codeWord (encode (.bgezal rs imm)) .i .bgezal .rsSimm [.reg rs, .imm (simm imm)] s)

/-- UNKNOWN under REGIMM (R509): `rt, rs, #imm`, `rt` being the sub-opcode. -/
def execUnknownRegimm (rs rt : RegIndex) (imm : BitVec 16) (s : State) : Host.Outcome State Fault Refusal :=
  .next (codeWord (encode (.unknownRegimm rs rt imm)) .i .unknown .rtRsSimm [.reg rt, .reg rs, .imm (simm imm)] s)

/-- BEQ (R501): `rs, rt, #imm`, signed. -/
def execBeq (rs rt : RegIndex) (imm : BitVec 16) (s : State) : Host.Outcome State Fault Refusal :=
  .next (codeWord (encode (.beq rs rt imm)) .i .beq .rsRtSimm [.reg rs, .reg rt, .imm (simm imm)] s)

/-- BNE (R502): `rs, rt, #imm`, signed. -/
def execBne (rs rt : RegIndex) (imm : BitVec 16) (s : State) : Host.Outcome State Fault Refusal :=
  .next (codeWord (encode (.bne rs rt imm)) .i .bne .rsRtSimm [.reg rs, .reg rt, .imm (simm imm)] s)

/-- BLEZ (R503): `rs, #imm`, signed. -/
def execBlez (rs rt : RegIndex) (imm : BitVec 16) (s : State) : Host.Outcome State Fault Refusal :=
  .next (codeWord (encode (.blez rs rt imm)) .i .blez .rsSimm [.reg rs, .imm (simm imm)] s)

/-- BGTZ (R504): `rs, #imm`, signed. -/
def execBgtz (rs rt : RegIndex) (imm : BitVec 16) (s : State) : Host.Outcome State Fault Refusal :=
  .next (codeWord (encode (.bgtz rs rt imm)) .i .bgtz .rsSimm [.reg rs, .imm (simm imm)] s)

/-- ADDI (R515): `rt, rs, #imm`, signed. -/
def execAddi (rs rt : RegIndex) (imm : BitVec 16) (s : State) : Host.Outcome State Fault Refusal :=
  .next (codeWord (encode (.addi rs rt imm)) .i .addi .rtRsSimm [.reg rt, .reg rs, .imm (simm imm)] s)

/-- ADDIU (R516): `rt, rs, #imm`, signed. -/
def execAddiu (rs rt : RegIndex) (imm : BitVec 16) (s : State) : Host.Outcome State Fault Refusal :=
  .next (codeWord (encode (.addiu rs rt imm)) .i .addiu .rtRsSimm [.reg rt, .reg rs, .imm (simm imm)] s)

/-- SLTI (R517): `rt, rs, #imm`, signed. -/
def execSlti (rs rt : RegIndex) (imm : BitVec 16) (s : State) : Host.Outcome State Fault Refusal :=
  .next (codeWord (encode (.slti rs rt imm)) .i .slti .rtRsSimm [.reg rt, .reg rs, .imm (simm imm)] s)

/-- ANDI (R520): `rt, rs, #imm`, signed. -/
def execAndi (rs rt : RegIndex) (imm : BitVec 16) (s : State) : Host.Outcome State Fault Refusal :=
  .next (codeWord (encode (.andi rs rt imm)) .i .andi .rtRsSimm [.reg rt, .reg rs, .imm (simm imm)] s)

/-- ORI (R521): `rt, rs, #imm`, signed. -/
def execOri (rs rt : RegIndex) (imm : BitVec 16) (s : State) : Host.Outcome State Fault Refusal :=
  .next (codeWord (encode (.ori rs rt imm)) .i .ori .rtRsSimm [.reg rt, .reg rs, .imm (simm imm)] s)

/-- XORI (R522): `rt, rs, #imm`, signed. -/
def execXori (rs rt : RegIndex) (imm : BitVec 16) (s : State) : Host.Outcome State Fault Refusal :=
  .next (codeWord (encode (.xori rs rt imm)) .i .xori .rtRsSimm [.reg rt, .reg rs, .imm (simm imm)] s)

/-- LUI (R525): `rt, #imm`, the raw unsigned immediate. -/
def execLui (rs rt : RegIndex) (imm : BitVec 16) (s : State) : Host.Outcome State Fault Refusal :=
  .next (codeWord (encode (.lui rs rt imm)) .i .lui .rtUimm [.reg rt, .uimm (uimm imm)] s)

/-- LB (R530): `rt, #imm(rs)`, signed; no access is made. -/
def execLb (rs rt : RegIndex) (imm : BitVec 16) (s : State) : Host.Outcome State Fault Refusal :=
  .next (codeWord (encode (.lb rs rt imm)) .i .lb .rtMem [.reg rt, .mem (simm imm) rs] s)

/-- LH (R531): `rt, #imm(rs)`, signed; no access is made. -/
def execLh (rs rt : RegIndex) (imm : BitVec 16) (s : State) : Host.Outcome State Fault Refusal :=
  .next (codeWord (encode (.lh rs rt imm)) .i .lh .rtMem [.reg rt, .mem (simm imm) rs] s)

/-- LW (R532): `rt, #imm(rs)`, signed; no access is made. -/
def execLw (rs rt : RegIndex) (imm : BitVec 16) (s : State) : Host.Outcome State Fault Refusal :=
  .next (codeWord (encode (.lw rs rt imm)) .i .lw .rtMem [.reg rt, .mem (simm imm) rs] s)

/-- LBU (R533): `rt, #imm(rs)`, signed; no access is made. -/
def execLbu (rs rt : RegIndex) (imm : BitVec 16) (s : State) : Host.Outcome State Fault Refusal :=
  .next (codeWord (encode (.lbu rs rt imm)) .i .lbu .rtMem [.reg rt, .mem (simm imm) rs] s)

/-- LHU (R534): `rt, #imm(rs)`, signed; no access is made. -/
def execLhu (rs rt : RegIndex) (imm : BitVec 16) (s : State) : Host.Outcome State Fault Refusal :=
  .next (codeWord (encode (.lhu rs rt imm)) .i .lhu .rtMem [.reg rt, .mem (simm imm) rs] s)

/-- SB (R535): `rt, #imm(rs)`, signed; no access is made. -/
def execSb (rs rt : RegIndex) (imm : BitVec 16) (s : State) : Host.Outcome State Fault Refusal :=
  .next (codeWord (encode (.sb rs rt imm)) .i .sb .rtMem [.reg rt, .mem (simm imm) rs] s)

/-- SH (R536): `rt, #imm(rs)`, signed; no access is made. -/
def execSh (rs rt : RegIndex) (imm : BitVec 16) (s : State) : Host.Outcome State Fault Refusal :=
  .next (codeWord (encode (.sh rs rt imm)) .i .sh .rtMem [.reg rt, .mem (simm imm) rs] s)

/-- SW (R537): `rt, #imm(rs)`, signed; no access is made. -/
def execSw (rs rt : RegIndex) (imm : BitVec 16) (s : State) : Host.Outcome State Fault Refusal :=
  .next (codeWord (encode (.sw rs rt imm)) .i .sw .rtMem [.reg rt, .mem (simm imm) rs] s)

/-- UNKNOWN in the immediate format (R540): `rt, rs, #imm`. -/
def execUnknownI (opcode : BitVec 6) (rs rt : RegIndex) (imm : BitVec 16) (s : State) : Host.Outcome State Fault Refusal :=
  .next (codeWord (encode (.unknownI opcode rs rt imm)) .i .unknown .rtRsSimm [.reg rt, .reg rs, .imm (simm imm)] s)

end Sys2Proof.Machine
end

