-- ==== Sys2Proof/Machine/Jump.lean ====
section
/-! DEFINITION. The jump format (R600 to R602): the meaning of its two instructions, which is their decoded record. -/

namespace Sys2Proof.Machine

/-- J (R601): `#address`; the jump is named, not taken. -/
def execJ (target : BitVec 26) (s : State) : Host.Outcome State Fault Refusal :=
  .next (codeWord (encode (.j target)) .j .j .target [.addr (jaddr target)] s)

/-- JAL (R602): `#address`; the jump is named, not taken. -/
def execJal (target : BitVec 26) (s : State) : Host.Outcome State Fault Refusal :=
  .next (codeWord (encode (.jal target)) .j .jal .target [.addr (jaddr target)] s)

end Sys2Proof.Machine
end

