-- ==== Sys2Proof/Machine/Register.lean ====
section
/-! DEFINITION. The register format (R400 to R437): the meaning of each of its instructions, which is its decoded
record. The block names the instruction and never performs it (R5, R400). -/

namespace Sys2Proof.Machine

/-- NOP (R425): no operands. -/
def execNop (s : State) : Host.Outcome State Fault Refusal :=
  .next (codeWord (encode .nop) .r .nop .none [] s)

/-- SLL (R401): `rd, rt, #shamt`. -/
def execSll (rs rt rd shamt : RegIndex) (s : State) : Host.Outcome State Fault Refusal :=
  .next (codeWord (encode (.sll rs rt rd shamt)) .r .sll .rdRtShamt [.reg rd, .reg rt, .uimm shamt.toNat] s)

/-- SRL (R402): `rd, rt, #shamt`. -/
def execSrl (rs rt rd shamt : RegIndex) (s : State) : Host.Outcome State Fault Refusal :=
  .next (codeWord (encode (.srl rs rt rd shamt)) .r .srl .rdRtShamt [.reg rd, .reg rt, .uimm shamt.toNat] s)

/-- SRA (R403): `rd, rt, #shamt`. -/
def execSra (rs rt rd shamt : RegIndex) (s : State) : Host.Outcome State Fault Refusal :=
  .next (codeWord (encode (.sra rs rt rd shamt)) .r .sra .rdRtShamt [.reg rd, .reg rt, .uimm shamt.toNat] s)

/-- SLLV (R404): `rd, rt, rs`. -/
def execSllv (rs rt rd shamt : RegIndex) (s : State) : Host.Outcome State Fault Refusal :=
  .next (codeWord (encode (.sllv rs rt rd shamt)) .r .sllv .rdRtRs [.reg rd, .reg rt, .reg rs] s)

/-- SRLV (R405): `rd, rt, rs`. -/
def execSrlv (rs rt rd shamt : RegIndex) (s : State) : Host.Outcome State Fault Refusal :=
  .next (codeWord (encode (.srlv rs rt rd shamt)) .r .srlv .rdRtRs [.reg rd, .reg rt, .reg rs] s)

/-- SRAV (R406): `rd, rt, rs`. -/
def execSrav (rs rt rd shamt : RegIndex) (s : State) : Host.Outcome State Fault Refusal :=
  .next (codeWord (encode (.srav rs rt rd shamt)) .r .srav .rdRtRs [.reg rd, .reg rt, .reg rs] s)

/-- JR (R407): `rs`; no target is computed and no address changed. -/
def execJr (rs rt rd shamt : RegIndex) (s : State) : Host.Outcome State Fault Refusal :=
  .next (codeWord (encode (.jr rs rt rd shamt)) .r .jr .rs [.reg rs] s)

/-- JALR (R408): `rd, rs`. -/
def execJalr (rs rt rd shamt : RegIndex) (s : State) : Host.Outcome State Fault Refusal :=
  .next (codeWord (encode (.jalr rs rt rd shamt)) .r .jalr .rdRs [.reg rd, .reg rs] s)

/-- SYSCALL (R410): no operands, and no system-call exception (R800). -/
def execSyscall (rs rt rd shamt : RegIndex) (s : State) : Host.Outcome State Fault Refusal :=
  .next (codeWord (encode (.syscall rs rt rd shamt)) .r .syscall .none [] s)

/-- BREAK (R411): no operands; decoded as code it sets `sentinel`, by the code branch it shares with every word (R650). -/
def execBrk (rs rt rd shamt : RegIndex) (s : State) : Host.Outcome State Fault Refusal :=
  .next (codeWord (encode (.brk rs rt rd shamt)) .r .brk .none [] s)

/-- MFHI (R412): `rd`. -/
def execMfhi (rs rt rd shamt : RegIndex) (s : State) : Host.Outcome State Fault Refusal :=
  .next (codeWord (encode (.mfhi rs rt rd shamt)) .r .mfhi .rd [.reg rd] s)

/-- MTHI (R413): `rs`. -/
def execMthi (rs rt rd shamt : RegIndex) (s : State) : Host.Outcome State Fault Refusal :=
  .next (codeWord (encode (.mthi rs rt rd shamt)) .r .mthi .rs [.reg rs] s)

/-- MFLO (R414): `rd`. -/
def execMflo (rs rt rd shamt : RegIndex) (s : State) : Host.Outcome State Fault Refusal :=
  .next (codeWord (encode (.mflo rs rt rd shamt)) .r .mflo .rd [.reg rd] s)

/-- MTLO (R415): `rs`. -/
def execMtlo (rs rt rd shamt : RegIndex) (s : State) : Host.Outcome State Fault Refusal :=
  .next (codeWord (encode (.mtlo rs rt rd shamt)) .r .mtlo .rs [.reg rs] s)

/-- MULT (R431): `rd, rs, rt`. -/
def execMult (rs rt rd shamt : RegIndex) (s : State) : Host.Outcome State Fault Refusal :=
  .next (codeWord (encode (.mult rs rt rd shamt)) .r .mult .rdRsRt [.reg rd, .reg rs, .reg rt] s)

/-- MULTU (R432): `rd, rs, rt`. -/
def execMultu (rs rt rd shamt : RegIndex) (s : State) : Host.Outcome State Fault Refusal :=
  .next (codeWord (encode (.multu rs rt rd shamt)) .r .multu .rdRsRt [.reg rd, .reg rs, .reg rt] s)

/-- DIV (R433): `rd, rs, rt`. -/
def execDiv (rs rt rd shamt : RegIndex) (s : State) : Host.Outcome State Fault Refusal :=
  .next (codeWord (encode (.div rs rt rd shamt)) .r .div .rdRsRt [.reg rd, .reg rs, .reg rt] s)

/-- DIVU (R434): `rd, rs, rt`. -/
def execDivu (rs rt rd shamt : RegIndex) (s : State) : Host.Outcome State Fault Refusal :=
  .next (codeWord (encode (.divu rs rt rd shamt)) .r .divu .rdRsRt [.reg rd, .reg rs, .reg rt] s)

/-- ADD (R416): `rd, rs, rt`. -/
def execAdd (rs rt rd shamt : RegIndex) (s : State) : Host.Outcome State Fault Refusal :=
  .next (codeWord (encode (.add rs rt rd shamt)) .r .add .rdRsRt [.reg rd, .reg rs, .reg rt] s)

/-- ADDU (R435): `rd, rs, rt`. -/
def execAddu (rs rt rd shamt : RegIndex) (s : State) : Host.Outcome State Fault Refusal :=
  .next (codeWord (encode (.addu rs rt rd shamt)) .r .addu .rdRsRt [.reg rd, .reg rs, .reg rt] s)

/-- SUB (R417): `rd, rs, rt`. -/
def execSub (rs rt rd shamt : RegIndex) (s : State) : Host.Outcome State Fault Refusal :=
  .next (codeWord (encode (.sub rs rt rd shamt)) .r .sub .rdRsRt [.reg rd, .reg rs, .reg rt] s)

/-- SUBU (R436): `rd, rs, rt`. -/
def execSubu (rs rt rd shamt : RegIndex) (s : State) : Host.Outcome State Fault Refusal :=
  .next (codeWord (encode (.subu rs rt rd shamt)) .r .subu .rdRsRt [.reg rd, .reg rs, .reg rt] s)

/-- AND (R418): `rd, rs, rt`. -/
def execAnd (rs rt rd shamt : RegIndex) (s : State) : Host.Outcome State Fault Refusal :=
  .next (codeWord (encode (.and rs rt rd shamt)) .r .and .rdRsRt [.reg rd, .reg rs, .reg rt] s)

/-- OR (R419): `rd, rs, rt`. -/
def execOr (rs rt rd shamt : RegIndex) (s : State) : Host.Outcome State Fault Refusal :=
  .next (codeWord (encode (.or rs rt rd shamt)) .r .or .rdRsRt [.reg rd, .reg rs, .reg rt] s)

/-- XOR (R420): `rd, rs, rt`. -/
def execXor (rs rt rd shamt : RegIndex) (s : State) : Host.Outcome State Fault Refusal :=
  .next (codeWord (encode (.xor rs rt rd shamt)) .r .xor .rdRsRt [.reg rd, .reg rs, .reg rt] s)

/-- NOR (R421): `rd, rs, rt`. -/
def execNor (rs rt rd shamt : RegIndex) (s : State) : Host.Outcome State Fault Refusal :=
  .next (codeWord (encode (.nor rs rt rd shamt)) .r .nor .rdRsRt [.reg rd, .reg rs, .reg rt] s)

/-- SLT (R422): `rd, rs, rt`. -/
def execSlt (rs rt rd shamt : RegIndex) (s : State) : Host.Outcome State Fault Refusal :=
  .next (codeWord (encode (.slt rs rt rd shamt)) .r .slt .rdRsRt [.reg rd, .reg rs, .reg rt] s)

/-- SLTU (R437): `rd, rs, rt`. -/
def execSltu (rs rt rd shamt : RegIndex) (s : State) : Host.Outcome State Fault Refusal :=
  .next (codeWord (encode (.sltu rs rt rd shamt)) .r .sltu .rdRsRt [.reg rd, .reg rs, .reg rt] s)

/-- UNKNOWN in the register format (R426): `rd, rs, rt`, not an error. -/
def execUnknownR (rs rt rd shamt : RegIndex) (funct : BitVec 6) (s : State) : Host.Outcome State Fault Refusal :=
  .next (codeWord (encode (.unknownR rs rt rd shamt funct)) .r .unknown .rdRsRt [.reg rd, .reg rs, .reg rt] s)

end Sys2Proof.Machine
end

