-- ==== Sys2Proof/Machine/Dispatch.lean ====
section
/-! DEFINITION. The dispatch from an instruction to its meaning, one arm per constructor: what processing the
instruction's word as code does to the block. -/

namespace Sys2Proof.Machine

def exec (i : Instr) (s : State) : Host.Outcome State Fault Refusal :=
  match i with
  | .nop => Sys2Proof.Machine.execNop s
  | .sll rs rt rd shamt => Sys2Proof.Machine.execSll rs rt rd shamt s
  | .srl rs rt rd shamt => Sys2Proof.Machine.execSrl rs rt rd shamt s
  | .sra rs rt rd shamt => Sys2Proof.Machine.execSra rs rt rd shamt s
  | .sllv rs rt rd shamt => Sys2Proof.Machine.execSllv rs rt rd shamt s
  | .srlv rs rt rd shamt => Sys2Proof.Machine.execSrlv rs rt rd shamt s
  | .srav rs rt rd shamt => Sys2Proof.Machine.execSrav rs rt rd shamt s
  | .jr rs rt rd shamt => Sys2Proof.Machine.execJr rs rt rd shamt s
  | .jalr rs rt rd shamt => Sys2Proof.Machine.execJalr rs rt rd shamt s
  | .syscall rs rt rd shamt => Sys2Proof.Machine.execSyscall rs rt rd shamt s
  | .brk rs rt rd shamt => Sys2Proof.Machine.execBrk rs rt rd shamt s
  | .mfhi rs rt rd shamt => Sys2Proof.Machine.execMfhi rs rt rd shamt s
  | .mthi rs rt rd shamt => Sys2Proof.Machine.execMthi rs rt rd shamt s
  | .mflo rs rt rd shamt => Sys2Proof.Machine.execMflo rs rt rd shamt s
  | .mtlo rs rt rd shamt => Sys2Proof.Machine.execMtlo rs rt rd shamt s
  | .mult rs rt rd shamt => Sys2Proof.Machine.execMult rs rt rd shamt s
  | .multu rs rt rd shamt => Sys2Proof.Machine.execMultu rs rt rd shamt s
  | .div rs rt rd shamt => Sys2Proof.Machine.execDiv rs rt rd shamt s
  | .divu rs rt rd shamt => Sys2Proof.Machine.execDivu rs rt rd shamt s
  | .add rs rt rd shamt => Sys2Proof.Machine.execAdd rs rt rd shamt s
  | .addu rs rt rd shamt => Sys2Proof.Machine.execAddu rs rt rd shamt s
  | .sub rs rt rd shamt => Sys2Proof.Machine.execSub rs rt rd shamt s
  | .subu rs rt rd shamt => Sys2Proof.Machine.execSubu rs rt rd shamt s
  | .and rs rt rd shamt => Sys2Proof.Machine.execAnd rs rt rd shamt s
  | .or rs rt rd shamt => Sys2Proof.Machine.execOr rs rt rd shamt s
  | .xor rs rt rd shamt => Sys2Proof.Machine.execXor rs rt rd shamt s
  | .nor rs rt rd shamt => Sys2Proof.Machine.execNor rs rt rd shamt s
  | .slt rs rt rd shamt => Sys2Proof.Machine.execSlt rs rt rd shamt s
  | .sltu rs rt rd shamt => Sys2Proof.Machine.execSltu rs rt rd shamt s
  | .unknownR rs rt rd shamt funct => Sys2Proof.Machine.execUnknownR rs rt rd shamt funct s
  | .bltz rs imm => Sys2Proof.Machine.execBltz rs imm s
  | .bgez rs imm => Sys2Proof.Machine.execBgez rs imm s
  | .bltzal rs imm => Sys2Proof.Machine.execBltzal rs imm s
  | .bgezal rs imm => Sys2Proof.Machine.execBgezal rs imm s
  | .unknownRegimm rs rt imm => Sys2Proof.Machine.execUnknownRegimm rs rt imm s
  | .beq rs rt imm => Sys2Proof.Machine.execBeq rs rt imm s
  | .bne rs rt imm => Sys2Proof.Machine.execBne rs rt imm s
  | .blez rs rt imm => Sys2Proof.Machine.execBlez rs rt imm s
  | .bgtz rs rt imm => Sys2Proof.Machine.execBgtz rs rt imm s
  | .addi rs rt imm => Sys2Proof.Machine.execAddi rs rt imm s
  | .addiu rs rt imm => Sys2Proof.Machine.execAddiu rs rt imm s
  | .slti rs rt imm => Sys2Proof.Machine.execSlti rs rt imm s
  | .andi rs rt imm => Sys2Proof.Machine.execAndi rs rt imm s
  | .ori rs rt imm => Sys2Proof.Machine.execOri rs rt imm s
  | .xori rs rt imm => Sys2Proof.Machine.execXori rs rt imm s
  | .lui rs rt imm => Sys2Proof.Machine.execLui rs rt imm s
  | .lb rs rt imm => Sys2Proof.Machine.execLb rs rt imm s
  | .lh rs rt imm => Sys2Proof.Machine.execLh rs rt imm s
  | .lw rs rt imm => Sys2Proof.Machine.execLw rs rt imm s
  | .lbu rs rt imm => Sys2Proof.Machine.execLbu rs rt imm s
  | .lhu rs rt imm => Sys2Proof.Machine.execLhu rs rt imm s
  | .sb rs rt imm => Sys2Proof.Machine.execSb rs rt imm s
  | .sh rs rt imm => Sys2Proof.Machine.execSh rs rt imm s
  | .sw rs rt imm => Sys2Proof.Machine.execSw rs rt imm s
  | .j target => Sys2Proof.Machine.execJ target s
  | .jal target => Sys2Proof.Machine.execJal target s
  | .unknownI opcode rs rt imm => Sys2Proof.Machine.execUnknownI opcode rs rt imm s

end Sys2Proof.Machine
end

