-- ==== Sys2Proof/Machine/Tracker.lean ====
section
/-! DEFINITION. The section tracker's step at the block's ports (R650), in the fixed priority of R806. -/

namespace Sys2Proof.Machine

/-- A word accepted at the ports (R650, the part after the fault check): a word of the data section is not decoded
(R654); any other is decoded, and processed as the instruction it is. -/
def processWord (w : Word) (s : State) : Host.Outcome State Fault Refusal :=
  if isData s then .next (dataWord w s) else exec (decode s.params.rFunctExtra w) s

/-- One step of the block (R650, R806): reset first, then an idle step, then the refusal of a word presented before any
reset (R901), then `AddressOverflow` (R802), and otherwise the word is processed. -/
def blockStep (rst inValid : Bool) (w : Word) (s : State) : Host.Outcome State Fault Refusal :=
  if rst then .next (resetBlock s)
  else if !inValid then .next s
  else if !s.resetDone then .refused .wordBeforeReset
  else if s.ovf then addressOverflow s
  else processWord w s

end Sys2Proof.Machine
end

