-- ==== Sys2Proof/Machine/HostFront.lean ====
section
/-! DEFINITION. The host duties that stand before the ports (R910 items 3 to 6): trimming a record, skipping a blank
one, checking it, turning its characters or bytes into a word, and presenting the word, one per step. -/

namespace Sys2Proof.Machine

/-- White space around a record (R910 item 4). DESIGN CHOICE: which characters it is, log entry 8. -/
def isSpace (c : Char) : Bool := c == ' ' || c == '\t' || c == '\r' || c == '\n'

/-- A record with the white space around it removed (R910 item 4). -/
def trimRecord (t : Text) : Text := ((t.dropWhile isSpace).reverse.dropWhile isSpace).reverse

/-- Whether a character may stand in a record (R803). -/
def isBitChar (c : Char) : Bool := c == '0' || c == '1'

/-- Base-2 parsing, the first character the most significant digit (R8). -/
def bitsValue (t : Text) : Nat := t.foldl (fun n c => 2 * n + if c == '1' then 1 else 0) 0

/-- The word of a record: character `i` to bit `31 - i` (R8, R910 item 6). None where the record is not exactly 32
characters, each `0` or `1` (R803). -/
def parseRecord (t : Text) : Option Word :=
  if t.length = 32 ∧ t.all isBitChar = true then some (BitVec.ofNat 32 (bitsValue t)) else none

/-- The word of four bytes in store order, by `HOST_BYTE_ORDER` (R202). DESIGN CHOICE, log entry 9. -/
def wordOfBytes (order : ByteOrder) (b0 b1 b2 b3 : BitVec 8) : Word :=
  match order with
  | .big => b0 ++ b1 ++ b2 ++ b3
  | .little => b3 ++ b2 ++ b1 ++ b0

/-- The host takes a record: a blank one is skipped and not presented, so it gets no address (R910 item 4, D29); a
malformed one fails the run (R803); any other is presented with `in_valid = 1` (R910 item 6). -/
def takeRecord (t : Text) (s : State) : Host.Outcome State Fault Refusal :=
  let r := trimRecord t
  if r.isEmpty then .next s
  else
    let counted := { s with recordsTaken := s.recordsTaken + 1 }
    match parseRecord r with
    | none => .fault (.malformedRecord counted.recordsTaken r)
    | some w => blockStep false true w counted

/-- What one stimulus does. -/
def presentStimulus (e : Stimulus) (s : State) : Host.Outcome State Fault Refusal :=
  match e with
  | .ports rst inValid w => blockStep rst inValid w s
  | .record t => takeRecord t s
  | .bytes b0 b1 b2 b3 => blockStep false true (wordOfBytes s.params.hostByteOrder b0 b1 b2 b3) s
  | .accessFailure which => .fault (.inputAccess which)

/-- One step: the next stimulus is presented. With none left the host holds `in_valid = 0`, which has no effect on the
block (R910, D17). -/
def stepPending (s : State) : Host.Outcome State Fault Refusal :=
  match s.pending with
  | [] => .next (s.tick [])
  | e :: rest => presentStimulus e (s.tick rest)

/-- The stimuli of a whole run over the records of an input: one reset step, then one record per step, in input order
(R910 items 2 to 6). -/
def runSchedule (records : List Text) : List Stimulus := .ports true false 0#32 :: records.map .record

/-- Whether a run has ended normally (R912): everything was presented, and no step has stopped. -/
def runEnded (s : State) : Bool := s.resetDone && s.pending.isEmpty

/-- `s` with a word put where the next step takes its word, and with the section tracker and the overflow flag such
that the step decodes it; in a state that would decode it anyway only `pending` changes. DESIGN CHOICE, log entry 4. -/
def presentNext (w : Word) (s : State) : State :=
  { s with
    pending := .ports false true w :: s.pending
    resetDone := true, ovf := false, mode := .code, sentinel := s.sentinel && !thresholdReached s }

end Sys2Proof.Machine
end

