-- ==== Sys2Proof/Machine/Step.lean ====
section
/-! DEFINITION. The step of the machine, and where an instruction word is put to be the next one processed. -/

namespace Sys2Proof.Machine

/-- One step of the machine (R650): what the host presents next meets the block. -/
def step (s : State) : Host.Outcome State Fault Refusal := stepPending s

/-- `s` with the word of a table row's bits presented in the next step, so that it is decoded and run. -/
def State.withFetchWord (s : State) (nbits w : Nat) : State := presentNext (tableWord nbits w) s

end Sys2Proof.Machine
end

