-- ==== Sys2Proof/Machine/Ports.lean ====
section
/-! DEFINITION. The output ports (R112): combinational functions of the state before the step, the input ports and the
parameters, with the id numberings of R113, R114 and R340. A port that R112 lets hold any value takes a free one. -/

namespace Sys2Proof.Machine

/-- The mnemonic id of `out_mnem` (R113). -/
def mnemonicId : Mnemonic → BitVec 6
  | .nop => 0#6
  | .sll => 1#6
  | .srl => 2#6
  | .sra => 3#6
  | .sllv => 4#6
  | .srlv => 5#6
  | .srav => 6#6
  | .jr => 7#6
  | .jalr => 8#6
  | .syscall => 9#6
  | .brk => 10#6
  | .mfhi => 11#6
  | .mthi => 12#6
  | .mflo => 13#6
  | .mtlo => 14#6
  | .mult => 15#6
  | .multu => 16#6
  | .div => 17#6
  | .divu => 18#6
  | .add => 19#6
  | .addu => 20#6
  | .sub => 21#6
  | .subu => 22#6
  | .and => 23#6
  | .or => 24#6
  | .xor => 25#6
  | .nor => 26#6
  | .slt => 27#6
  | .sltu => 28#6
  | .beq => 29#6
  | .bne => 30#6
  | .blez => 31#6
  | .bgtz => 32#6
  | .addi => 33#6
  | .addiu => 34#6
  | .slti => 35#6
  | .andi => 36#6
  | .ori => 37#6
  | .xori => 38#6
  | .lui => 39#6
  | .lb => 40#6
  | .lh => 41#6
  | .lw => 42#6
  | .lbu => 43#6
  | .lhu => 44#6
  | .sb => 45#6
  | .sh => 46#6
  | .sw => 47#6
  | .bltz => 48#6
  | .bgez => 49#6
  | .bltzal => 50#6
  | .bgezal => 51#6
  | .j => 52#6
  | .jal => 53#6
  | .unknown => 54#6

/-- The operand-form id of `out_form` (R340). -/
def formId : Form → BitVec 4
  | .none => 0#4
  | .rdRtShamt => 1#4
  | .rdRtRs => 2#4
  | .rs => 3#4
  | .rdRs => 4#4
  | .rd => 5#4
  | .rdRsRt => 6#4
  | .rsRtSimm => 7#4
  | .rsSimm => 8#4
  | .rtRsSimm => 9#4
  | .rtUimm => 10#4
  | .rtMem => 11#4
  | .target => 12#4

/-- The format id of `out_format` (R112). Its value 3, none, belongs to a DATA line, on which R112 also lets the port
hold any value: the model takes that, and the port is free there. DEDUCED, log entry 6. -/
def formatId : Format → BitVec 2
  | .r => 0#2
  | .i => 1#2
  | .j => 2#2

/-- One operand slot on the ports: `out_opK_kind`, `out_opK_reg`, `out_opK_val` (R112). -/
structure SlotPorts where
  kind : BitVec 3
  reg : RegIndex
  val : Word
  deriving DecidableEq, Repr

/-- The output ports of R112. A one-bit port is a Bool, true for 1; `outKind` is true on a DATA line, `stMode` true
in DATA. -/
structure OutPorts where
  outValid : Bool
  outFault : Bool
  outKind : Bool
  outAddr : Word
  outWord : Word
  outFormat : BitVec 2
  outMnem : BitVec 6
  outForm : BitVec 4
  outNops : BitVec 2
  outOp0 : SlotPorts
  outOp1 : SlotPorts
  outOp2 : SlotPorts
  fOpcode : BitVec 6
  fRs : RegIndex
  fRt : RegIndex
  fRd : RegIndex
  fShamt : BitVec 5
  fFunct : BitVec 6
  fImm16 : BitVec 16
  fTarget26 : BitVec 26
  fSimm32 : Word
  fJaddr : BitVec 28
  stAddr : Word
  stSentinel : Bool
  stMode : Bool
  stOvf : Bool
  deriving DecidableEq, Repr

/-- A free port value at the port's width (I1, D30). -/
def freeBits (n draws : Nat) (port : FreePort) : BitVec n := (Config.freePort draws port).setWidth n

/-- A slot's ports when it holds an operand or none (R114): the kind id, and `_reg` and `_val` free where R114 says
any. A signed value is put on the port in 32-bit two's complement. -/
def slotPorts (draws : Nat) (regPort valPort : FreePort) : Option Operand → SlotPorts
  | none => ⟨0#3, freeBits 5 draws regPort, freeBits 32 draws valPort⟩
  | some (.reg n) => ⟨1#3, n, freeBits 32 draws valPort⟩
  | some (.imm v) => ⟨2#3, freeBits 5 draws regPort, BitVec.ofInt 32 v⟩
  | some (.uimm v) => ⟨3#3, freeBits 5 draws regPort, BitVec.ofNat 32 v⟩
  | some (.mem off base) => ⟨4#3, base, BitVec.ofInt 32 off⟩
  | some (.addr v) => ⟨5#3, freeBits 5 draws regPort, BitVec.ofNat 32 v⟩

/-- A slot all of whose ports are free: on a DATA line, or when `out_valid = 0` (R112). -/
def freeSlot (draws : Nat) (kindPort regPort valPort : FreePort) : SlotPorts :=
  ⟨freeBits 3 draws kindPort, freeBits 5 draws regPort, freeBits 32 draws valPort⟩

/-- The ports of R112 that are driven in every step, whatever else is free: `out_valid`, `out_fault` and `st_*`. The
others are free here, as R112 leaves them when `out_valid = 0`. -/
def idlePorts (s : State) (rst inValid : Bool) : OutPorts :=
  let d := s.draws
  { outValid := inValid && !rst && !s.ovf
    outFault := inValid && !rst && s.ovf
    outKind := (Config.freePort d .outKind).getLsbD 0
    outAddr := freeBits 32 d .outAddr
    outWord := freeBits 32 d .outWord
    outFormat := freeBits 2 d .outFormat
    outMnem := freeBits 6 d .outMnem
    outForm := freeBits 4 d .outForm
    outNops := freeBits 2 d .outNops
    outOp0 := freeSlot d .op0Kind .op0Reg .op0Val
    outOp1 := freeSlot d .op1Kind .op1Reg .op1Val
    outOp2 := freeSlot d .op2Kind .op2Reg .op2Val
    fOpcode := freeBits 6 d .fOpcode
    fRs := freeBits 5 d .fRs
    fRt := freeBits 5 d .fRt
    fRd := freeBits 5 d .fRd
    fShamt := freeBits 5 d .fShamt
    fFunct := freeBits 6 d .fFunct
    fImm16 := freeBits 16 d .fImm16
    fTarget26 := freeBits 26 d .fTarget26
    fSimm32 := freeBits 32 d .fSimm32
    fJaddr := freeBits 28 d .fJaddr
    stAddr := s.addr
    stSentinel := s.sentinel
    stMode := s.mode == .data
    stOvf := s.ovf }

/-- The raw fields, the sign-extender and the jump address, driven for every word (R301, R310, R312). -/
def OutPorts.withFields (w : Word) (p : OutPorts) : OutPorts :=
  { p with
    fOpcode := opcodeOf w, fRs := rsOf w, fRt := rtOf w, fRd := rdOf w, fShamt := shamtOf w, fFunct := functOf w
    fImm16 := imm16Of w, fTarget26 := target26Of w, fSimm32 := simm32 (imm16Of w)
    fJaddr := BitVec.ofNat 28 (jaddr (target26Of w)) }

/-- The decoded record on the ports (R112, R114). -/
def OutPorts.withDecoded (draws : Nat) (dec : Decoded) (p : OutPorts) : OutPorts :=
  { p with
    outFormat := formatId dec.format, outMnem := mnemonicId dec.mnem, outForm := formId dec.form
    outNops := BitVec.ofNat 2 dec.operands.length
    outOp0 := slotPorts draws .op0Reg .op0Val dec.operands[0]?
    outOp1 := slotPorts draws .op1Reg .op1Val dec.operands[1]?
    outOp2 := slotPorts draws .op2Reg .op2Val dec.operands[2]? }

/-- The output ports in the step that presents `rst`, `in_valid` and `in_word` in state `s` (R112).
DEDUCED: the same formulas before the first reset, log entry 15. -/
def outPorts (s : State) (rst inValid : Bool) (w : Word) : OutPorts :=
  let p := idlePorts s rst inValid
  if p.outValid then
    let q := { p.withFields w with outKind := isData s, outAddr := s.addr, outWord := w }
    if isData s then q else q.withDecoded s.draws (decodeFields s.params.rFunctExtra w)
  else p

end Sys2Proof.Machine
end

