-- ==== Sys2Proof/Safety.lean ====
section
/-! DEFINITION. The terms claims are stated in: what processing a word does, written out field by field; which word a
step accepts; and what a run's listing is in closed form (R651, R653), with the invariant that says so. -/

namespace Sys2Proof.Machine

/-- The state after a word is processed as code with decoded instruction `d`, field by field (R650): the record, the
sentinel, the address and the overflow flag. Every other field stays. -/
def afterCode (w : Word) (d : Decoded) (s : State) : State :=
  { s with
    listing := s.listing ++ [.code s.addr w d.format d.mnem d.form d.operands]
    sentinel := if d.mnem = .brk then true else s.sentinel
    ovf := if 2 ^ 32 ≤ s.addr.toNat + 4 then true else s.ovf
    addr := s.addr + 4#32 }

/-- The state after a word is processed as data, field by field (R650, R654). -/
def afterData (w : Word) (s : State) : State :=
  { s with
    listing := s.listing ++ [.data s.addr w]
    mode := .data
    ovf := if 2 ^ 32 ≤ s.addr.toNat + 4 then true else s.ovf
    addr := s.addr + 4#32 }

/-- The word `w` decodes to `i`, and `i` runs in every state: it emits the record of `d` for the word `w` and does
nothing else but what processing any word does. -/
def RunsAs (x : RFunctExtra) (w : Word) (i : Instr) (d : Decoded) : Prop :=
  decode x w = i ∧ ∀ s : State, exec i s = .next (afterCode w d s)

/-- The spelling (R363) of the last record of a listing. -/
def lastSpelling (l : List Record) : Text :=
  match l.getLast? with
  | some (.code _ _ _ m _ ops) => instructionText m ops
  | _ => []

/-- Processing `w` as code emits a record spelled `text`. -/
def Spells (x : RFunctExtra) (w : Word) (text : String) : Prop :=
  ∀ s : State, ∃ t, exec (decode x w) s = .next t ∧ lastSpelling t.listing = text.toList

/-- The word the next step presents to the block with `in_valid = 1` and `rst = 0`, if it presents one. -/
def presentedWord (s : State) : Option Word :=
  match s.pending with
  | .ports false true w :: _ => some w
  | .record t :: _ => if (trimRecord t).isEmpty then none else parseRecord (trimRecord t)
  | .bytes b0 b1 b2 b3 :: _ => some (wordOfBytes s.params.hostByteOrder b0 b1 b2 b3)
  | _ => none

/-- Whether the next step is a reset step: `rst = 1` (R900). -/
def presentsReset (s : State) : Bool :=
  match s.pending with
  | .ports true _ _ :: _ => true
  | _ => false

/-- The index of the first word of the stream whose mnemonic is BREAK: `k*` of R653. -/
def firstBreak (x : RFunctExtra) (ws : List Word) : Option Nat :=
  ws.findIdx? fun w => (decodeFields x w).mnem == .brk

/-- Whether word `k` of a run is data (R653): `k > k*` and `CODE_BASE + 4k ≥ DATA_THRESHOLD`. -/
def splitIsData (p : Params) (ws : List Word) (k : Nat) : Bool :=
  match firstBreak p.rFunctExtra ws with
  | none => false
  | some b => decide (b < k ∧ p.dataThreshold.toNat ≤ p.codeBase.toNat + 4 * k)

/-- Record `k` of a run over the words `ws` (R651, R653). -/
def splitRecord (p : Params) (ws : List Word) (k : Nat) (w : Word) : Record :=
  let addr := BitVec.ofNat 32 (p.codeBase.toNat + 4 * k)
  let d := decodeFields p.rFunctExtra w
  if splitIsData p ws k then .data addr w else .code addr w d.format d.mnem d.form d.operands

/-- The listing of a run over the words `ws`, in closed form (R651, R653). -/
def splitListing (p : Params) (ws : List Word) : List Record := ws.mapIdx (splitRecord p ws)

/-- The words a run's listing shows, in order. -/
def wordsOf (l : List Record) : List Word := l.map recordWord

/-- What holds of a block that has been reset: its listing is the closed form of the words it has taken, and its four
state elements are those of that listing (R100 to R104, R651, R653). -/
structure TracksListing (s : State) : Prop where
  /-- The listing is the closed form. -/
  listing_eq : s.listing = splitListing s.params (wordsOf s.listing)
  /-- The counter has advanced by 4 for every record (R651). -/
  addr_eq : s.addr = s.params.codeBase + BitVec.ofNat 32 (4 * s.listing.length)
  /-- The last record's address is below the counter's top (R651). -/
  below_top : s.params.codeBase.toNat + 4 * s.listing.length < 2 ^ 32 + 4
  /-- The overflow flag says that the next address would be past the top (R104). -/
  ovf_iff : s.ovf = true ↔ 2 ^ 32 ≤ s.params.codeBase.toNat + 4 * s.listing.length
  /-- The sentinel says that a BREAK has been decoded as code (R102). -/
  sentinel_iff : s.sentinel = true ↔ (firstBreak s.params.rFunctExtra (wordsOf s.listing)).isSome = true
  /-- The mode says that a word has been rendered as data (R103). -/
  mode_iff : s.mode = .data ↔ ∃ r ∈ s.listing, recordIsData r = true

/-- The invariant of the machine: once reset, the block tracks its listing; and every run that a reset ended has left
a listing in closed form. -/
structure Inv (s : State) : Prop where
  tracks : s.resetDone = true → TracksListing s
  past : ∀ l ∈ s.pastListings, l = splitListing s.params (wordsOf l)

/-- The stimuli that present a list of words, one a step (R910 item 6). -/
def presentAll (ws : List Word) : List Stimulus := ws.map (.ports false true)

/-- A slot's ports show an operand, or none (R114): the kind id, the register where the kind has one, and the value,
signed or unsigned as the kind says. Nothing is said of a port that R114 lets hold any value. -/
def SlotShows (q : SlotPorts) : Option Operand → Prop
  | none => q.kind = 0#3
  | some (.reg n) => q.kind = 1#3 ∧ q.reg = n
  | some (.imm v) => q.kind = 2#3 ∧ q.val.toInt = v
  | some (.uimm v) => q.kind = 3#3 ∧ q.val.toNat = v
  | some (.mem off base) => q.kind = 4#3 ∧ q.reg = base ∧ q.val.toInt = off
  | some (.addr v) => q.kind = 5#3 ∧ q.val.toNat = v

/-- The state the block sees when the next stimulus is taken: one stimulus fewer, one draw more, and a record of text
that is presented counted (R801, R910). -/
def stimulusTaken (s : State) : State :=
  { s with
    pending := s.pending.tail
    draws := s.draws + 1
    recordsTaken := match s.pending with
      | .record _ :: _ => s.recordsTaken + 1
      | _ => s.recordsTaken }

/-- The value a spelling in decimal digits stands for. -/
def decimalValue (t : Text) : Nat := t.foldl (fun n c => 10 * n + (c.toNat - '0'.toNat)) 0

end Sys2Proof.Machine
end

