-- ==== Sys2Proof/Certificates/Slice0/Obligations.lean ====
section
/-! DEFINITION. The statements for the provers. Each formalises the rules its docstring names. -/

open Sys2Proof Sys2Proof.Machine

/-! ### Fields and operand assembly -/

/-- R300: a word's eight fields are the bit ranges of the table, read as unsigned integers, and the block drives them
on their ports. -/
def Obligations.FieldsAreTheirBitRanges : Prop :=
  ∀ (s : State) (w : Word), s.ovf = false →
    let p := outPorts s false true w
    (p.fOpcode = opcodeOf w ∧ p.fRs = rsOf w ∧ p.fRt = rtOf w ∧ p.fRd = rdOf w ∧ p.fShamt = shamtOf w ∧
      p.fFunct = functOf w ∧ p.fImm16 = imm16Of w ∧ p.fTarget26 = target26Of w) ∧
    (opcodeOf w).toNat = w.toNat / 2 ^ 26 ∧ (rsOf w).toNat = w.toNat / 2 ^ 21 % 32 ∧
    (rtOf w).toNat = w.toNat / 2 ^ 16 % 32 ∧ (rdOf w).toNat = w.toNat / 2 ^ 11 % 32 ∧
    (shamtOf w).toNat = w.toNat / 2 ^ 6 % 32 ∧ (functOf w).toNat = w.toNat % 64 ∧
    (imm16Of w).toNat = w.toNat % 2 ^ 16 ∧ (target26Of w).toNat = w.toNat % 2 ^ 26

/-- R301, R203: the fields are driven for every accepted word, data words among them, and the I and J fields overlap the
R fields: the target is `rs ++ rt ++ imm16` and the immediate is `rd ++ shamt ++ funct`. -/
def Obligations.FieldViewsOverlap : Prop :=
  ∀ (s : State) (w : Word), s.ovf = false →
    let p := outPorts s false true w
    p.fImm16 = p.fRd ++ p.fShamt ++ p.fFunct ∧ p.fTarget26 = p.fRs ++ p.fRt ++ p.fImm16 ∧
      w = p.fOpcode ++ p.fTarget26

/-- R310: the signed immediate lies in `[-32768, 32767]`, is what the port `f_simm32` carries, and is the value of every
immediate and offset operand of an immediate-format word; only LUI's operand is not signed. -/
def Obligations.SignedImmediateFeedsOperands : Prop :=
  (∀ v : BitVec 16,
    (0x8000 ≤ v.toNat → simm v = (v.toNat : Int) - 0x10000) ∧ (v.toNat < 0x8000 → simm v = v.toNat) ∧
      -32768 ≤ simm v ∧ simm v ≤ 32767 ∧ (simm32 v).toInt = simm v) ∧
  (∀ (s : State) (w : Word), s.ovf = false →
    (outPorts s false true w).fSimm32 = simm32 (imm16Of w)) ∧
  (∀ (x : RFunctExtra) (w : Word) (op : Operand), formatOf w = .i → op ∈ (decodeFields x w).operands →
    (∀ v, op = .imm v → v = simm (imm16Of w)) ∧ (∀ v b, op = .mem v b → v = simm (imm16Of w)) ∧
      (∀ v, op = .uimm v → mnemonicOf x w = .lui))

/-- R311: the unsigned immediate, in `[0, 65535]`, is LUI's operand, and among immediate-format words only LUI's. -/
def Obligations.UnsignedImmediateOnlyInLui : Prop :=
  (∀ v : BitVec 16, uimm v = v.toNat ∧ uimm v ≤ 65535) ∧
  (∀ (x : RFunctExtra) (w : Word) (v : Nat), formatOf w = .i →
    (.uimm v ∈ (decodeFields x w).operands ↔ mnemonicOf x w = .lui ∧ v = uimm (imm16Of w)))

/-- R312: the jump address is the target times 4, the target followed by two zero bits; it is a multiple of 4 up to
268435452, and it is what the port `f_jaddr` carries whatever the address of the word. -/
def Obligations.JumpAddressIsTargetTimesFour : Prop :=
  (∀ t : BitVec 26,
    jaddr t = t.toNat * 4 ∧ jaddr t = (t ++ 0#2).toNat ∧ jaddr t % 4 = 0 ∧ jaddr t ≤ 268435452) ∧
  (∀ (s : State) (w : Word), s.ovf = false →
    (outPorts s false true w).fJaddr.toNat = jaddr (target26Of w))

/-! ### Dispatch and the tables -/

/-- R320, R321: the opcode alone selects exactly one format; 1 opcode selects R, 2 select J and 61 select I. -/
def Obligations.OpcodeSelectsFormat : Prop :=
  (∀ w : Word,
    (opcodeOf w = 0x00#6 → formatOf w = .r) ∧
    (opcodeOf w = 0x02#6 ∨ opcodeOf w = 0x03#6 → formatOf w = .j) ∧
    (opcodeOf w ≠ 0x00#6 → opcodeOf w ≠ 0x02#6 → opcodeOf w ≠ 0x03#6 → formatOf w = .i)) ∧
  ((List.range 64).countP fun k => formatOfOpcode (BitVec.ofNat 6 k) = .r) = 1 ∧
  ((List.range 64).countP fun k => formatOfOpcode (BitVec.ofNat 6 k) = .j) = 2 ∧
  ((List.range 64).countP fun k => formatOfOpcode (BitVec.ofNat 6 k) = .i) = 61

/-- R351, R425: NOP is exactly the all-zero word and has no operands; any other word with opcode 0 is SLL when funct is
0 and otherwise what the function table says; and a word of another opcode is of another format. -/
def Obligations.NopIsTheZeroWord : Prop :=
  (∀ (x : RFunctExtra) (w : Word), mnemonicOf x w = .nop ↔ w = 0x00000000#32) ∧
  (∀ x : RFunctExtra, RunsAs x 0x00000000#32 .nop ⟨.r, .nop, .none, []⟩ ∧ Spells x 0x00000000#32 "NOP") ∧
  (∀ (x : RFunctExtra) (w : Word), opcodeOf w = 0x00#6 → functOf w = 0x00#6 → w ≠ 0x00000000#32 →
    mnemonicOf x w = .sll) ∧
  (∀ (x : RFunctExtra) (w : Word), opcodeOf w = 0x00#6 → functOf w ≠ 0x00#6 →
    mnemonicOf x w = lookupKey (rfunctTable x) (functOf w)) ∧
  (∀ w : Word, opcodeOf w ≠ 0x00#6 → formatOf w ≠ .r)

/-- R360: the mnemonic is UNKNOWN for exactly the words of the three cases, whose counts under `mips1` are 36 function
codes, 41 opcodes and 28 REGIMM codes; and an UNKNOWN word is processed like any other. -/
def Obligations.UnknownSpace : Prop :=
  let functKeys (x : RFunctExtra) : List Nat :=
    [0x00, 0x02, 0x03, 0x04, 0x06, 0x07, 0x08, 0x09, 0x0C, 0x0D, 0x10, 0x11, 0x12, 0x13, 0x20, 0x22, 0x24, 0x25,
      0x26, 0x27, 0x2A] ++ (if x = .mips1 then [0x18, 0x19, 0x1A, 0x1B, 0x21, 0x23, 0x2B] else [])
  let opcodeKeys : List Nat :=
    [0x04, 0x05, 0x06, 0x07, 0x08, 0x09, 0x0A, 0x0C, 0x0D, 0x0E, 0x0F, 0x20, 0x21, 0x23, 0x24, 0x25, 0x28, 0x29, 0x2B]
  let regimmKeys : List Nat := [0x00, 0x01, 0x10, 0x11]
  (∀ (x : RFunctExtra) (w : Word), mnemonicOf x w = .unknown ↔
    (opcodeOf w = 0x00#6 ∧ w ≠ 0x00000000#32 ∧ (functOf w).toNat ∉ functKeys x) ∨
    (formatOf w = .i ∧ opcodeOf w ≠ 0x01#6 ∧ (opcodeOf w).toNat ∉ opcodeKeys) ∨
    (opcodeOf w = 0x01#6 ∧ (rtOf w).toNat ∉ regimmKeys)) ∧
  ((List.range 64).countP fun k => k ∉ functKeys .mips1) = 36 ∧
  ((List.range 64).countP fun k => formatOfOpcode (BitVec.ofNat 6 k) = .i ∧ k ≠ 0x01 ∧ k ∉ opcodeKeys) = 41 ∧
  ((List.range 32).countP fun k => k ∉ regimmKeys) = 28 ∧
  (∀ (x : RFunctExtra) (w : Word) (s : State), mnemonicOf x w = .unknown →
    exec (decode x w) s = .next (afterCode w (decodeFields x w) s))

/-- R350: the worked examples of the source (R515, R601, R425, and R416 as conflict C1 reads it) and one word of
every other family decode to the instruction they stand for. -/
def Obligations.WordsDecodeAsTheSpecSays : Prop :=
  ∀ x : RFunctExtra,
    decode x 0x00000020#32 = .add 0 0 0 0 ∧
    decode x 0x00000000#32 = .nop ∧
    decode x 0x2022FFFF#32 = .addi 1 2 0xFFFF#16 ∧
    decode x 0x08000064#32 = .j 100#26 ∧
    decode x 0x00021900#32 = .sll 0 2 3 4 ∧
    decode x 0x012A5804#32 = .sllv 9 10 11 0 ∧
    decode x 0x03E538C8#32 = .jr 31 5 7 3 ∧
    decode x 0x03FFFFCD#32 = .brk 31 31 31 31 ∧
    decode x 0x04917FFF#32 = .bgezal 4 0x7FFF#16 ∧
    decode x 0x1022FFFE#32 = .beq 1 2 0xFFFE#16 ∧
    decode x 0x3C018000#32 = .lui 0 1 0x8000#16 ∧
    decode x 0xAFBFFFF8#32 = .sw 29 31 0xFFF8#16 ∧
    decode x 0x0C000001#32 = .jal 1#26 ∧
    decode x 0x00221801#32 = .unknownR 1 2 3 0 0x01#6 ∧
    decode x 0x04A20007#32 = .unknownRegimm 5 2 0x0007#16 ∧
    decode x 0x2C22FFFF#32 = .unknownI 0x0B#6 1 2 0xFFFF#16

/-! ### The instructions: what each word decodes to, that it runs in every state, and all that it changes -/

/-- R401, R402, R403: SLL, SRL and SRA, with their corner cases and examples. -/
def Obligations.ShiftAmountInstructions : Prop :=
  (∀ (x : RFunctExtra) (w : Word), opcodeOf w = 0x00#6 →
    let ops : List Operand := [.reg (rdOf w), .reg (rtOf w), .uimm (shamtOf w).toNat]
    (functOf w = 0x00#6 → w ≠ 0x00000000#32 →
      RunsAs x w (.sll (rsOf w) (rtOf w) (rdOf w) (shamtOf w)) ⟨.r, .sll, .rdRtShamt, ops⟩) ∧
    (functOf w = 0x02#6 → RunsAs x w (.srl (rsOf w) (rtOf w) (rdOf w) (shamtOf w)) ⟨.r, .srl, .rdRtShamt, ops⟩) ∧
    (functOf w = 0x03#6 → RunsAs x w (.sra (rsOf w) (rtOf w) (rdOf w) (shamtOf w)) ⟨.r, .sra, .rdRtShamt, ops⟩)) ∧
  (∀ x : RFunctExtra,
    Spells x 0x00200000#32 "SLL\tR0, R0, #0" ∧ Spells x 0x00001000#32 "SLL\tR2, R0, #0" ∧
    Spells x 0x00021900#32 "SLL\tR3, R2, #4" ∧ Spells x 0x000537C2#32 "SRL\tR6, R5, #31" ∧
    Spells x 0x00074043#32 "SRA\tR8, R7, #1")

/-- R404, R405, R406: SLLV, SRLV and SRAV; rt comes before rs, and shamt is ignored. -/
def Obligations.ShiftVariableInstructions : Prop :=
  (∀ (x : RFunctExtra) (w : Word), opcodeOf w = 0x00#6 →
    let ops : List Operand := [.reg (rdOf w), .reg (rtOf w), .reg (rsOf w)]
    (functOf w = 0x04#6 → RunsAs x w (.sllv (rsOf w) (rtOf w) (rdOf w) (shamtOf w)) ⟨.r, .sllv, .rdRtRs, ops⟩) ∧
    (functOf w = 0x06#6 → RunsAs x w (.srlv (rsOf w) (rtOf w) (rdOf w) (shamtOf w)) ⟨.r, .srlv, .rdRtRs, ops⟩) ∧
    (functOf w = 0x07#6 → RunsAs x w (.srav (rsOf w) (rtOf w) (rdOf w) (shamtOf w)) ⟨.r, .srav, .rdRtRs, ops⟩)) ∧
  (∀ x : RFunctExtra,
    Spells x 0x012A5804#32 "SLLV\tR11, R10, R9" ∧ Spells x 0x00221806#32 "SRLV\tR3, R2, R1" ∧
    Spells x 0x00853007#32 "SRAV\tR6, R5, R4")

/-- R407, R408: JR and JALR. No target is computed and nothing but the word's own step of 4 changes the address; JALR
prints rd as it stands. -/
def Obligations.RegisterJumps : Prop :=
  (∀ (x : RFunctExtra) (w : Word), opcodeOf w = 0x00#6 →
    (functOf w = 0x08#6 →
      RunsAs x w (.jr (rsOf w) (rtOf w) (rdOf w) (shamtOf w)) ⟨.r, .jr, .rs, [.reg (rsOf w)]⟩) ∧
    (functOf w = 0x09#6 →
      RunsAs x w (.jalr (rsOf w) (rtOf w) (rdOf w) (shamtOf w)) ⟨.r, .jalr, .rdRs, [.reg (rdOf w), .reg (rsOf w)]⟩)) ∧
  (∀ x : RFunctExtra,
    Spells x 0x03E00008#32 "JR\tR31" ∧ Spells x 0x03E538C8#32 "JR\tR31" ∧ Spells x 0x0080F809#32 "JALR\tR31, R4" ∧
    Spells x 0x00800009#32 "JALR\tR0, R4")

/-- R410: SYSCALL has no operands whatever bits 25..6 hold, raises nothing and sets no flag. -/
def Obligations.SyscallIsOnlyNamed : Prop :=
  (∀ (x : RFunctExtra) (w : Word), opcodeOf w = 0x00#6 → functOf w = 0x0C#6 →
    RunsAs x w (.syscall (rsOf w) (rtOf w) (rdOf w) (shamtOf w)) ⟨.r, .syscall, .none, []⟩) ∧
  (∀ x : RFunctExtra, Spells x 0x0000000C#32 "SYSCALL" ∧ Spells x 0x0000010C#32 "SYSCALL")

/-- R411: BREAK has no operands whatever bits 25..6 hold and, decoded as code, sets the sentinel; in DATA it is a data
word with no effect; a second BREAK leaves the sentinel set; and below the threshold it does not end the code region
by itself. -/
def Obligations.BreakSetsTheSentinel : Prop :=
  (∀ (x : RFunctExtra) (w : Word), opcodeOf w = 0x00#6 → functOf w = 0x0D#6 →
    RunsAs x w (.brk (rsOf w) (rtOf w) (rdOf w) (shamtOf w)) ⟨.r, .brk, .none, []⟩ ∧
    (∀ s t, exec (decode x w) s = .next t → t.sentinel = true) ∧
    (∀ s, s.mode = .data → processWord w s = .next (afterData w s)) ∧
    (∀ s t, s.mode = .code → exec (decode x w) s = .next t → t.addr.toNat < t.params.dataThreshold.toNat →
      isData t = false)) ∧
  (∀ x : RFunctExtra, Spells x 0x0000000D#32 "BREAK" ∧ Spells x 0x03FFFFCD#32 "BREAK")

/-- R412 to R415: MFHI, MTHI, MFLO and MTLO. -/
def Obligations.HiLoMoves : Prop :=
  (∀ (x : RFunctExtra) (w : Word), opcodeOf w = 0x00#6 →
    (functOf w = 0x10#6 →
      RunsAs x w (.mfhi (rsOf w) (rtOf w) (rdOf w) (shamtOf w)) ⟨.r, .mfhi, .rd, [.reg (rdOf w)]⟩) ∧
    (functOf w = 0x11#6 →
      RunsAs x w (.mthi (rsOf w) (rtOf w) (rdOf w) (shamtOf w)) ⟨.r, .mthi, .rs, [.reg (rsOf w)]⟩) ∧
    (functOf w = 0x12#6 →
      RunsAs x w (.mflo (rsOf w) (rtOf w) (rdOf w) (shamtOf w)) ⟨.r, .mflo, .rd, [.reg (rdOf w)]⟩) ∧
    (functOf w = 0x13#6 →
      RunsAs x w (.mtlo (rsOf w) (rtOf w) (rdOf w) (shamtOf w)) ⟨.r, .mtlo, .rs, [.reg (rsOf w)]⟩)) ∧
  (∀ x : RFunctExtra,
    Spells x 0x00004010#32 "MFHI\tR8" ∧ Spells x 0x03E04010#32 "MFHI\tR8" ∧ Spells x 0x01200011#32 "MTHI\tR9" ∧
    Spells x 0x00005012#32 "MFLO\tR10" ∧ Spells x 0x01600013#32 "MTLO\tR11")

/-- R416 to R422: ADD, SUB, AND, OR, XOR, NOR and SLT; `0x00000020` is ADD (conflict C1). -/
def Obligations.ThreeRegisterInstructions : Prop :=
  (∀ (x : RFunctExtra) (w : Word), opcodeOf w = 0x00#6 →
    let d (m : Mnemonic) : Decoded := ⟨.r, m, .rdRsRt, [.reg (rdOf w), .reg (rsOf w), .reg (rtOf w)]⟩
    (functOf w = 0x20#6 → RunsAs x w (.add (rsOf w) (rtOf w) (rdOf w) (shamtOf w)) (d .add)) ∧
    (functOf w = 0x22#6 → RunsAs x w (.sub (rsOf w) (rtOf w) (rdOf w) (shamtOf w)) (d .sub)) ∧
    (functOf w = 0x24#6 → RunsAs x w (.and (rsOf w) (rtOf w) (rdOf w) (shamtOf w)) (d .and)) ∧
    (functOf w = 0x25#6 → RunsAs x w (.or (rsOf w) (rtOf w) (rdOf w) (shamtOf w)) (d .or)) ∧
    (functOf w = 0x26#6 → RunsAs x w (.xor (rsOf w) (rtOf w) (rdOf w) (shamtOf w)) (d .xor)) ∧
    (functOf w = 0x27#6 → RunsAs x w (.nor (rsOf w) (rtOf w) (rdOf w) (shamtOf w)) (d .nor)) ∧
    (functOf w = 0x2A#6 → RunsAs x w (.slt (rsOf w) (rtOf w) (rdOf w) (shamtOf w)) (d .slt))) ∧
  (∀ x : RFunctExtra,
    Spells x 0x00000020#32 "ADD\tR0, R0, R0" ∧ Spells x 0x00211820#32 "ADD\tR3, R1, R1" ∧
    Spells x 0x00221820#32 "ADD\tR3, R1, R2" ∧ Spells x 0x00E84822#32 "SUB\tR9, R7, R8" ∧
    Spells x 0x01AE7824#32 "AND\tR15, R13, R14" ∧ Spells x 0x02119025#32 "OR\tR18, R16, R17" ∧
    Spells x 0x0274A826#32 "XOR\tR21, R19, R20" ∧ Spells x 0x02D7C027#32 "NOR\tR24, R22, R23" ∧
    Spells x 0x033AD82A#32 "SLT\tR27, R25, R26" ∧ Spells x 0x0021082A#32 "SLT\tR1, R1, R1")

/-- R426: a register-format word whose function code is no key is UNKNOWN with operands `rd, rs, rt`; under
`R_FUNCT_EXTRA = none` the seven extra codes are no keys. -/
def Obligations.UnknownFunctionCodes : Prop :=
  (∀ (x : RFunctExtra) (w : Word), opcodeOf w = 0x00#6 →
    (functOf w).toNat ∉ [0x00, 0x02, 0x03, 0x04, 0x06, 0x07, 0x08, 0x09, 0x0C, 0x0D, 0x10, 0x11, 0x12, 0x13, 0x20,
      0x22, 0x24, 0x25, 0x26, 0x27, 0x2A] →
    (x = .mips1 → (functOf w).toNat ∉ [0x18, 0x19, 0x1A, 0x1B, 0x21, 0x23, 0x2B]) →
    RunsAs x w (.unknownR (rsOf w) (rtOf w) (rdOf w) (shamtOf w) (functOf w))
      ⟨.r, .unknown, .rdRsRt, [.reg (rdOf w), .reg (rsOf w), .reg (rtOf w)]⟩) ∧
  (∀ x : RFunctExtra,
    Spells x 0x00000001#32 "UNKNOWN\tR0, R0, R0" ∧ Spells x 0x0000000F#32 "UNKNOWN\tR0, R0, R0" ∧
    Spells x 0x0000003F#32 "UNKNOWN\tR0, R0, R0" ∧ Spells x 0x00221801#32 "UNKNOWN\tR3, R1, R2")

/-- R430 to R437: MULT, MULTU, DIV, DIVU, ADDU, SUBU and SLTU under `mips1`; under `none` each of their words is UNKNOWN
with the same form and operands. -/
def Obligations.ExtraFunctionCodes : Prop :=
  (∀ w : Word, opcodeOf w = 0x00#6 →
    let d (m : Mnemonic) : Decoded := ⟨.r, m, .rdRsRt, [.reg (rdOf w), .reg (rsOf w), .reg (rtOf w)]⟩
    let unknown : Prop :=
      RunsAs .none w (.unknownR (rsOf w) (rtOf w) (rdOf w) (shamtOf w) (functOf w)) (d .unknown)
    (functOf w = 0x18#6 →
      RunsAs .mips1 w (.mult (rsOf w) (rtOf w) (rdOf w) (shamtOf w)) (d .mult) ∧ unknown) ∧
    (functOf w = 0x19#6 →
      RunsAs .mips1 w (.multu (rsOf w) (rtOf w) (rdOf w) (shamtOf w)) (d .multu) ∧ unknown) ∧
    (functOf w = 0x1A#6 →
      RunsAs .mips1 w (.div (rsOf w) (rtOf w) (rdOf w) (shamtOf w)) (d .div) ∧ unknown) ∧
    (functOf w = 0x1B#6 →
      RunsAs .mips1 w (.divu (rsOf w) (rtOf w) (rdOf w) (shamtOf w)) (d .divu) ∧ unknown) ∧
    (functOf w = 0x21#6 →
      RunsAs .mips1 w (.addu (rsOf w) (rtOf w) (rdOf w) (shamtOf w)) (d .addu) ∧ unknown) ∧
    (functOf w = 0x23#6 →
      RunsAs .mips1 w (.subu (rsOf w) (rtOf w) (rdOf w) (shamtOf w)) (d .subu) ∧ unknown) ∧
    (functOf w = 0x2B#6 →
      RunsAs .mips1 w (.sltu (rsOf w) (rtOf w) (rdOf w) (shamtOf w)) (d .sltu) ∧ unknown)) ∧
  Spells .mips1 0x00220018#32 "MULT\tR0, R1, R2" ∧ Spells .mips1 0x00640019#32 "MULTU\tR0, R3, R4" ∧
  Spells .mips1 0x00A6001A#32 "DIV\tR0, R5, R6" ∧ Spells .mips1 0x00E8001B#32 "DIVU\tR0, R7, R8" ∧
  Spells .mips1 0x00853021#32 "ADDU\tR6, R4, R5" ∧ Spells .none 0x00853021#32 "UNKNOWN\tR6, R4, R5" ∧
  Spells .mips1 0x014B6023#32 "SUBU\tR12, R10, R11" ∧ Spells .mips1 0x039DF02B#32 "SLTU\tR30, R28, R29"

/-- R501, R502, R511: BEQ and BNE print their own signed offset for every register pair. -/
def Obligations.TwoRegisterBranches : Prop :=
  (∀ (x : RFunctExtra) (w : Word),
    let ops : List Operand := [.reg (rsOf w), .reg (rtOf w), .imm (simm (imm16Of w))]
    (opcodeOf w = 0x04#6 → RunsAs x w (.beq (rsOf w) (rtOf w) (imm16Of w)) ⟨.i, .beq, .rsRtSimm, ops⟩) ∧
    (opcodeOf w = 0x05#6 → RunsAs x w (.bne (rsOf w) (rtOf w) (imm16Of w)) ⟨.i, .bne, .rsRtSimm, ops⟩)) ∧
  (∀ x : RFunctExtra,
    Spells x 0x10000000#32 "BEQ\tR0, R0, #0" ∧ Spells x 0x1000FFFF#32 "BEQ\tR0, R0, #-1" ∧
    Spells x 0x1022FFFE#32 "BEQ\tR1, R2, #-2" ∧ Spells x 0x14600005#32 "BNE\tR3, R0, #5")

/-- R503, R504: BLEZ and BGTZ; rt is ignored. -/
def Obligations.OneRegisterBranches : Prop :=
  (∀ (x : RFunctExtra) (w : Word),
    let ops : List Operand := [.reg (rsOf w), .imm (simm (imm16Of w))]
    (opcodeOf w = 0x06#6 → RunsAs x w (.blez (rsOf w) (rtOf w) (imm16Of w)) ⟨.i, .blez, .rsSimm, ops⟩) ∧
    (opcodeOf w = 0x07#6 → RunsAs x w (.bgtz (rsOf w) (rtOf w) (imm16Of w)) ⟨.i, .bgtz, .rsSimm, ops⟩)) ∧
  (∀ x : RFunctExtra,
    Spells x 0x18A30004#32 "BLEZ\tR5, #4" ∧ Spells x 0x18808000#32 "BLEZ\tR4, #-32768" ∧
    Spells x 0x1C1F0001#32 "BGTZ\tR0, #1" ∧ Spells x 0x1CA07FFF#32 "BGTZ\tR5, #32767")

/-- R505 to R509: the REGIMM branches, and UNKNOWN under REGIMM, which prints rt, the sub-opcode, first, and which 28
of the 32 rt values select. -/
def Obligations.RegimmInstructions : Prop :=
  (∀ (x : RFunctExtra) (w : Word), opcodeOf w = 0x01#6 →
    let ops : List Operand := [.reg (rsOf w), .imm (simm (imm16Of w))]
    (rtOf w = 0x00#5 → RunsAs x w (.bltz (rsOf w) (imm16Of w)) ⟨.i, .bltz, .rsSimm, ops⟩) ∧
    (rtOf w = 0x01#5 → RunsAs x w (.bgez (rsOf w) (imm16Of w)) ⟨.i, .bgez, .rsSimm, ops⟩) ∧
    (rtOf w = 0x10#5 → RunsAs x w (.bltzal (rsOf w) (imm16Of w)) ⟨.i, .bltzal, .rsSimm, ops⟩) ∧
    (rtOf w = 0x11#5 → RunsAs x w (.bgezal (rsOf w) (imm16Of w)) ⟨.i, .bgezal, .rsSimm, ops⟩) ∧
    (rtOf w ≠ 0x00#5 → rtOf w ≠ 0x01#5 → rtOf w ≠ 0x10#5 → rtOf w ≠ 0x11#5 →
      RunsAs x w (.unknownRegimm (rsOf w) (rtOf w) (imm16Of w))
        ⟨.i, .unknown, .rtRsSimm, [.reg (rtOf w), .reg (rsOf w), .imm (simm (imm16Of w))]⟩)) ∧
  ((List.range 32).countP fun k => k ∉ [0x00, 0x01, 0x10, 0x11]) = 28 ∧
  (∀ x : RFunctExtra,
    Spells x 0x0420FFFF#32 "BLTZ\tR1, #-1" ∧ Spells x 0x04410003#32 "BGEZ\tR2, #3" ∧
    Spells x 0x04708000#32 "BLTZAL\tR3, #-32768" ∧ Spells x 0x04110000#32 "BGEZAL\tR0, #0" ∧
    Spells x 0x04917FFF#32 "BGEZAL\tR4, #32767" ∧ Spells x 0x041F0000#32 "UNKNOWN\tR31, R0, #0" ∧
    Spells x 0x04028000#32 "UNKNOWN\tR2, R0, #-32768" ∧ Spells x 0x04A20007#32 "UNKNOWN\tR2, R5, #7")

/-- R515 to R522: ADDI, ADDIU, SLTI, ANDI, ORI and XORI; the immediate is signed in all six. -/
def Obligations.ImmediateArithmetic : Prop :=
  (∀ (x : RFunctExtra) (w : Word),
    let d (m : Mnemonic) : Decoded :=
      ⟨.i, m, .rtRsSimm, [.reg (rtOf w), .reg (rsOf w), .imm (simm (imm16Of w))]⟩
    (opcodeOf w = 0x08#6 → RunsAs x w (.addi (rsOf w) (rtOf w) (imm16Of w)) (d .addi)) ∧
    (opcodeOf w = 0x09#6 → RunsAs x w (.addiu (rsOf w) (rtOf w) (imm16Of w)) (d .addiu)) ∧
    (opcodeOf w = 0x0A#6 → RunsAs x w (.slti (rsOf w) (rtOf w) (imm16Of w)) (d .slti)) ∧
    (opcodeOf w = 0x0C#6 → RunsAs x w (.andi (rsOf w) (rtOf w) (imm16Of w)) (d .andi)) ∧
    (opcodeOf w = 0x0D#6 → RunsAs x w (.ori (rsOf w) (rtOf w) (imm16Of w)) (d .ori)) ∧
    (opcodeOf w = 0x0E#6 → RunsAs x w (.xori (rsOf w) (rtOf w) (imm16Of w)) (d .xori))) ∧
  (∀ x : RFunctExtra,
    Spells x 0x2022FFFF#32 "ADDI\tR2, R1, #-1" ∧ Spells x 0x24030064#32 "ADDIU\tR3, R0, #100" ∧
    Spells x 0x2885FFF6#32 "SLTI\tR5, R4, #-10" ∧ Spells x 0x3000FFFF#32 "ANDI\tR0, R0, #-1" ∧
    Spells x 0x30C700FF#32 "ANDI\tR7, R6, #255" ∧ Spells x 0x35098001#32 "ORI\tR9, R8, #-32767" ∧
    Spells x 0x394BFFFF#32 "XORI\tR11, R10, #-1")

/-- R525: LUI prints the raw unsigned immediate, as is; rs is ignored. -/
def Obligations.LuiPrintsUnsigned : Prop :=
  (∀ (x : RFunctExtra) (w : Word), opcodeOf w = 0x0F#6 →
    RunsAs x w (.lui (rsOf w) (rtOf w) (imm16Of w))
      ⟨.i, .lui, .rtUimm, [.reg (rtOf w), .uimm (imm16Of w).toNat]⟩) ∧
  (∀ x : RFunctExtra,
    Spells x 0x3C018000#32 "LUI\tR1, #32768" ∧ Spells x 0x3C000000#32 "LUI\tR0, #0" ∧
    Spells x 0x3C01FFFF#32 "LUI\tR1, #65535")

/-- R530 to R537: the loads and stores print `rt, #imm(rs)`; no access is made and no alignment checked, since every
word of them runs and nothing but the word's own step changes. -/
def Obligations.LoadsAndStores : Prop :=
  (∀ (x : RFunctExtra) (w : Word),
    let d (m : Mnemonic) : Decoded := ⟨.i, m, .rtMem, [.reg (rtOf w), .mem (simm (imm16Of w)) (rsOf w)]⟩
    (opcodeOf w = 0x20#6 → RunsAs x w (.lb (rsOf w) (rtOf w) (imm16Of w)) (d .lb)) ∧
    (opcodeOf w = 0x21#6 → RunsAs x w (.lh (rsOf w) (rtOf w) (imm16Of w)) (d .lh)) ∧
    (opcodeOf w = 0x23#6 → RunsAs x w (.lw (rsOf w) (rtOf w) (imm16Of w)) (d .lw)) ∧
    (opcodeOf w = 0x24#6 → RunsAs x w (.lbu (rsOf w) (rtOf w) (imm16Of w)) (d .lbu)) ∧
    (opcodeOf w = 0x25#6 → RunsAs x w (.lhu (rsOf w) (rtOf w) (imm16Of w)) (d .lhu)) ∧
    (opcodeOf w = 0x28#6 → RunsAs x w (.sb (rsOf w) (rtOf w) (imm16Of w)) (d .sb)) ∧
    (opcodeOf w = 0x29#6 → RunsAs x w (.sh (rsOf w) (rtOf w) (imm16Of w)) (d .sh)) ∧
    (opcodeOf w = 0x2B#6 → RunsAs x w (.sw (rsOf w) (rtOf w) (imm16Of w)) (d .sw))) ∧
  (∀ x : RFunctExtra,
    Spells x 0x83A8FFFC#32 "LB\tR8, #-4(R29)" ∧ Spells x 0x87A90002#32 "LH\tR9, #2(R29)" ∧
    Spells x 0x8C000000#32 "LW\tR0, #0(R0)" ∧ Spells x 0x8FFF7FFF#32 "LW\tR31, #32767(R31)" ∧
    Spells x 0x8C0300AC#32 "LW\tR3, #172(R0)" ∧ Spells x 0x90850000#32 "LBU\tR5, #0(R4)" ∧
    Spells x 0x94C78000#32 "LHU\tR7, #-32768(R6)" ∧ Spells x 0xA1090001#32 "SB\tR9, #1(R8)" ∧
    Spells x 0xA54BFFFE#32 "SH\tR11, #-2(R10)" ∧ Spells x 0xAFBFFFF8#32 "SW\tR31, #-8(R29)")

/-- R540: an opcode that is not 0, a jump key, 0x01 or a key of `IOP`, which 41 are, is UNKNOWN with operands
`rt, rs, #imm`. -/
def Obligations.UnknownOpcodes : Prop :=
  let known : List Nat :=
    [0x00, 0x01, 0x02, 0x03, 0x04, 0x05, 0x06, 0x07, 0x08, 0x09, 0x0A, 0x0C, 0x0D, 0x0E, 0x0F, 0x20, 0x21, 0x23, 0x24,
      0x25, 0x28, 0x29, 0x2B]
  (∀ (x : RFunctExtra) (w : Word), (opcodeOf w).toNat ∉ known →
    RunsAs x w (.unknownI (opcodeOf w) (rsOf w) (rtOf w) (imm16Of w))
      ⟨.i, .unknown, .rtRsSimm, [.reg (rtOf w), .reg (rsOf w), .imm (simm (imm16Of w))]⟩) ∧
  ((List.range 64).countP fun k => k ∉ known) = 41 ∧
  (∀ x : RFunctExtra,
    Spells x 0xFFFFFFFF#32 "UNKNOWN\tR31, R31, #-1" ∧ Spells x 0x2C22FFFF#32 "UNKNOWN\tR2, R1, #-1" ∧
    Spells x 0x40000000#32 "UNKNOWN\tR0, R0, #0" ∧ Spells x 0xFC000000#32 "UNKNOWN\tR0, R0, #0")

/-- R600, R601, R602: J and JAL name the target times 4 and take no jump. -/
def Obligations.JumpInstructions : Prop :=
  (∀ (x : RFunctExtra) (w : Word),
    let ops : List Operand := [.addr ((target26Of w).toNat * 4)]
    (opcodeOf w = 0x02#6 → RunsAs x w (.j (target26Of w)) ⟨.j, .j, .target, ops⟩) ∧
    (opcodeOf w = 0x03#6 → RunsAs x w (.jal (target26Of w)) ⟨.j, .jal, .target, ops⟩)) ∧
  (∀ x : RFunctExtra,
    Spells x 0x08000000#32 "J\t#0" ∧ Spells x 0x0BFFFFFF#32 "J\t#268435452" ∧ Spells x 0x08000064#32 "J\t#400" ∧
    Spells x 0x0C000001#32 "JAL\t#4" ∧ Spells x 0x0FFFFFFF#32 "JAL\t#268435452")

/-- R800, R400, R500, R600: no instruction raises anything: every one answers a next state, in every state, with one
more record, the address 4 further and the flags as the code branch leaves them; the mode, the parameters and
everything the host holds stay. -/
def Obligations.EveryInstructionCompletes : Prop :=
  ∀ (i : Instr) (s : State), ∃ (t : State) (d : Decoded), exec i s = .next t ∧
    t.listing = s.listing ++ [.code s.addr (encode i) d.format d.mnem d.form d.operands] ∧
    t.addr = s.addr + 4#32 ∧ (t.ovf = true ↔ s.ovf = true ∨ 2 ^ 32 ≤ s.addr.toNat + 4) ∧
    (t.sentinel = true ↔ s.sentinel = true ∨ d.mnem = .brk) ∧
    t.mode = s.mode ∧ t.params = s.params ∧ t.resetDone = s.resetDone ∧ t.pending = s.pending ∧
    t.pastListings = s.pastListings ∧ t.recordsTaken = s.recordsTaken ∧ t.draws = s.draws

/-! ### Encoding, and the decode function -/

/-- Decoding the word of a well-formed instruction gives it back, every field at every value (R300 to R304, R330 to
R333, and the Encoding line of every instruction's rule). -/
def Obligations.DecodeOfEncodeIsIdentity : Prop :=
  ∀ (x : RFunctExtra) (i : Instr), wellFormed x i = true → decode x (encode i) = i

/-- Every word is the word of the well-formed instruction it decodes to: decode is total and drops no bit (R350). -/
def Obligations.EncodeOfDecodeIsIdentity : Prop :=
  ∀ (x : RFunctExtra) (w : Word), wellFormed x (decode x w) = true ∧ encode (decode x w) = w

/-- R350 against R401 to R602: running the instruction a word decodes to emits exactly the record that the decode
function of R350 gives for that word, by the mnemonic tables, the form of each mnemonic (R341) and the field
multiplexer (R340). -/
def Obligations.MeaningsRefineTheDecodeFunction : Prop :=
  ∀ (x : RFunctExtra) (w : Word) (s : State),
    exec (decode x w) s = .next (afterCode w (decodeFields x w) s)

/-- R430: between `none` and `mips1` only the mnemonic differs, from UNKNOWN to one of the seven, and only on
register-format words with one of the seven function codes. -/
def Obligations.ExtraParameterOnlyRenames : Prop :=
  ∀ w : Word,
    (decodeFields .none w).format = (decodeFields .mips1 w).format ∧
    (decodeFields .none w).form = (decodeFields .mips1 w).form ∧
    (decodeFields .none w).operands = (decodeFields .mips1 w).operands ∧
    ((decodeFields .none w).mnem ≠ (decodeFields .mips1 w).mnem →
      (decodeFields .none w).mnem = .unknown ∧
      (decodeFields .mips1 w).mnem ∈ ([.mult, .multu, .div, .divu, .addu, .subu, .sltu] : List Mnemonic))

/-! ### Steps -/

/-- R120, R900: a reset step, from any state and whatever `in_valid` and `in_word` hold, writes the reset state, emits
nothing (the new run's listing is empty) and drives neither `out_valid` nor `out_fault`; the parameters and what is
still to present stay. -/
def Obligations.ResetStepWritesTheResetState : Prop :=
  ∀ (s : State) (v : Bool) (w : Word) (rest : List Stimulus), s.pending = .ports true v w :: rest →
    (∃ t, step s = .next t ∧ t.addr = s.params.codeBase ∧ t.sentinel = false ∧ t.mode = .code ∧ t.ovf = false ∧
      t.listing = [] ∧ t.resetDone = true ∧ t.params = s.params ∧ t.pending = rest) ∧
    (outPorts s true v w).outValid = false ∧ (outPorts s true v w).outFault = false

/-- `State.reset` is the state a reset step leaves, of a block with the parameters `Config.params` (R120): the address
counter at `CODE_BASE`, the three flags clear. The parameter values, the empty host side, and what a reset step does
with the model's own fields (it keeps the listing of the run it ends) are the model's (log entries 2, 3, 4, 5 and 7). -/
def Obligations.ResetStateIsTheResetValues : Prop :=
  (State.reset.addr = State.reset.params.codeBase ∧ State.reset.sentinel = false ∧ State.reset.mode = .code ∧
    State.reset.ovf = false ∧ State.reset.listing = [] ∧ State.reset.params = Config.params) ∧
  (∀ (s t : State), presentsReset s = true → step s = .next t →
    t.pastListings = (if s.resetDone then s.pastListings ++ [s.listing] else s.pastListings) ∧
    t.recordsTaken = 0 ∧ t.draws = s.draws + 1)

/-- D17 and R650: a step with `in_valid = 0` changes nothing in the block and emits nothing; nor does a step with
nothing left to present. The draw counter, which only free port values read, moves on (log entry 5). -/
def Obligations.IdleStepChangesNothing : Prop :=
  (∀ (s : State) (w : Word) (rest : List Stimulus), s.pending = .ports false false w :: rest →
    step s = .next { s with pending := rest, draws := s.draws + 1 } ∧
    (outPorts s false false w).outValid = false ∧ (outPorts s false false w).outFault = false) ∧
  (∀ s : State, s.pending = [] → step s = .next { s with draws := s.draws + 1 })

/-- R901: a word presented before any reset is refused. -/
def Obligations.WordBeforeResetIsRefused : Prop :=
  ∀ (s : State) (w : Word), presentedWord s = some w → s.resetDone = false →
    step s = .refused .wordBeforeReset

/-- R802: a word presented while `ovf = 1` faults, with `out_fault = 1` and no record; the word whose address is the
last below the top is itself processed normally and sets `ovf`; and no step but a reset clears it. -/
def Obligations.AddressOverflowFaults : Prop :=
  (∀ (s : State) (w : Word), presentedWord s = some w → s.resetDone = true → s.ovf = true →
    step s = .fault (.addressOverflow s.addr true)) ∧
  (∀ (s : State) (w : Word), s.ovf = true →
    (outPorts s false true w).outFault = true ∧ (outPorts s false true w).outValid = false) ∧
  (∀ (s : State) (w : Word), presentedWord s = some w → s.resetDone = true → s.ovf = false →
    ∃ t r, step s = .next t ∧ t.listing = s.listing ++ [r] ∧ recordWord r = w ∧
      (t.ovf = true ↔ 2 ^ 32 ≤ s.addr.toNat + 4)) ∧
  (∀ s t : State, s.ovf = true → step s = .next t → presentsReset s = false →
    t.ovf = true ∧ t.addr = s.addr ∧ t.listing = s.listing)

/-- R806: the priority within one step of the ports, on a block that has been reset. -/
def Obligations.StepPriority : Prop :=
  ∀ (s : State) (rst v : Bool) (w : Word) (rest : List Stimulus),
    s.pending = .ports rst v w :: rest → s.resetDone = true →
    let u : State := { s with pending := rest, draws := s.draws + 1 }
    (rst = true → ∃ t, step s = .next t ∧ t.addr = s.params.codeBase ∧ t.sentinel = false ∧ t.mode = .code ∧
      t.ovf = false ∧ t.listing = []) ∧
    (rst = false → v = false → step s = .next u) ∧
    (rst = false → v = true → s.ovf = true → step s = .fault (.addressOverflow s.addr s.ovf)) ∧
    (rst = false → v = true → s.ovf = false →
      (s.mode = .data ∨ (s.sentinel = true ∧ s.params.dataThreshold.toNat ≤ s.addr.toNat) →
        step s = .next (afterData w u)) ∧
      (s.mode = .code → (s.sentinel = false ∨ s.addr.toNat < s.params.dataThreshold.toNat) →
        step s = exec (decode s.params.rFunctExtra w) u))

/-- R650: when the word the next step presents is processed as code, the step is `exec` of the instruction the word
decodes to, in the state with that stimulus taken. -/
def Obligations.StepRunsTheDecodedInstruction : Prop :=
  ∀ (s : State) (w : Word) (i : Instr), presentedWord s = some w → decode s.params.rFunctExtra w = i →
    s.resetDone = true → s.ovf = false → s.mode = .code →
    (s.sentinel = false ∨ s.addr.toNat < s.params.dataThreshold.toNat) →
    step s = exec i (stimulusTaken s)

/-- The word `withFetchWord` places is what the next step runs, in any state built with the default function table;
and a state that would process a word as code is changed in nothing but what is pending (log entry 4). -/
def Obligations.FetchedWordRunsNext : Prop :=
  (∀ (s : State) (nbits w : Nat) (i : Instr), decodeTableWord nbits w = some i → s.params.rFunctExtra = .mips1 →
    ∃ u : State, step (s.withFetchWord nbits w) = exec i u ∧ u.addr = s.addr ∧ u.listing = s.listing ∧
      u.pending = s.pending ∧ u.params = s.params) ∧
  (∀ (s : State) (nbits w : Nat), s.resetDone = true → s.ovf = false → s.mode = .code →
    (s.sentinel = false ∨ s.addr.toNat < s.params.dataThreshold.toNat) →
    s.withFetchWord nbits w = { s with pending := .ports false true (tableWord nbits w) :: s.pending })

/-- R654, R650: a word of the data section is not decoded: it emits a Data record, latches DATA and changes no other
flag but what its address does, whatever its bits; its line shows it as an unsigned integer. -/
def Obligations.DataWordsAreNotDecoded : Prop :=
  (∀ (s : State) (w : Word), presentedWord s = some w → s.resetDone = true → s.ovf = false →
    (s.mode = .data ∨ (s.sentinel = true ∧ s.params.dataThreshold.toNat ≤ s.addr.toNat)) →
    step s = .next (afterData w (stimulusTaken s))) ∧
  (∀ a w : Word, w.toNat ≤ 4294967295 ∧
    recordLine (.data a w) =
      rawBits w ++ "      \t".toList ++ decNat a.toNat ++ "\t".toList ++ decNat w.toNat)

/-- R101: a word advances the address by exactly 4, modulo `2^32`, in either section and sets `ovf` at the top; a reset
step writes `CODE_BASE`; and no other step writes the address. -/
def Obligations.AddressCounterWriters : Prop :=
  ∀ s t : State, step s = .next t →
    (presentsReset s = true → t.addr = s.params.codeBase) ∧
    (∀ w, presentedWord s = some w →
      t.addr.toNat = (s.addr.toNat + 4) % 2 ^ 32 ∧ (t.ovf = true ↔ 2 ^ 32 ≤ s.addr.toNat + 4)) ∧
    (presentsReset s = false → presentedWord s = none → t.addr = s.addr)

/-- R102: the sentinel is set by exactly the steps that process BREAK as code, is cleared only by reset, and nothing
else writes it. -/
def Obligations.SentinelWriters : Prop :=
  ∀ s t : State, step s = .next t →
    (presentsReset s = true → t.sentinel = false) ∧
    (∀ w, presentedWord s = some w →
      (t.sentinel = true ↔ s.sentinel = true ∨
        (isData s = false ∧ opcodeOf w = 0x00#6 ∧ functOf w = 0x0D#6))) ∧
    (presentsReset s = false → presentedWord s = none → t.sentinel = s.sentinel)

/-- R103: a step writes DATA exactly when it processes its word as data, only reset writes CODE, and once in DATA the
tracker stays there. -/
def Obligations.ModeWriters : Prop :=
  ∀ s t : State, step s = .next t →
    (presentsReset s = true → t.mode = .code) ∧
    (∀ w, presentedWord s = some w →
      (t.mode = .data ↔ s.mode = .data ∨
        (s.sentinel = true ∧ s.params.dataThreshold.toNat ≤ s.addr.toNat))) ∧
    (presentsReset s = false → presentedWord s = none → t.mode = s.mode) ∧
    (presentsReset s = false → s.mode = .data → t.mode = .data)

/-- R104: a word at address `a` sets `ovf` exactly when `a + 4 ≥ 2^32`; while it is set every word faults; and only
reset clears it. -/
def Obligations.OverflowFlagWriters : Prop :=
  (∀ s t : State, step s = .next t →
    (presentsReset s = true → t.ovf = false) ∧
    (∀ w, presentedWord s = some w → s.ovf = false ∧ (t.ovf = true ↔ 2 ^ 32 ≤ s.addr.toNat + 4)) ∧
    (presentsReset s = false → presentedWord s = none → t.ovf = s.ovf) ∧
    (presentsReset s = false → s.ovf = true → t.ovf = true)) ∧
  (∀ (s : State) (w : Word), presentedWord s = some w → s.resetDone = true → s.ovf = true →
    step s = .fault (.addressOverflow s.addr true))

/-- R106: no step writes the parameters. -/
def Obligations.ParametersAreFixed : Prop :=
  ∀ s t : State, step s = .next t → t.params = s.params

/-- R655, R205: every word presented without a fault yields one record, with that word and the address before the step,
and its line, after those already there; no other step emits one. -/
def Obligations.OneRecordPerWord : Prop :=
  ∀ s t : State, step s = .next t →
    (∀ w, presentedWord s = some w →
      ∃ r, t.listing = s.listing ++ [r] ∧ listingLines t = listingLines s ++ [recordLine r] ∧ recordWord r = w ∧
        recordAddr r = s.addr ∧ recordIsData r = isData s) ∧
    (presentsReset s = false → presentedWord s = none → t.listing = s.listing)

/-- R801: a step faults for exactly the three reasons, each with the information it records. -/
def Obligations.FaultsAreExactlyTheThree : Prop :=
  ∀ (s : State) (f : Fault), step s = .fault f ↔
    ((∃ w, presentedWord s = some w) ∧ s.resetDone = true ∧ s.ovf = true ∧ f = .addressOverflow s.addr s.ovf) ∨
    (∃ txt rest, s.pending = .record txt :: rest ∧ trimRecord txt ≠ [] ∧
      ((trimRecord txt).length ≠ 32 ∨ ∃ c ∈ trimRecord txt, c ≠ '0' ∧ c ≠ '1') ∧
      f = .malformedRecord (s.recordsTaken + 1) (trimRecord txt)) ∨
    (∃ which rest, s.pending = .accessFailure which :: rest ∧ f = .inputAccess which)

/-- R803, R910 items 4 to 6, D29, R202: what the host's own input does. A blank record is skipped and gets no address; a
malformed one fails the run; the text of a word, and four bytes in store order, present that word with
`in_valid = 1`. What white space is, how records are counted and that there are two byte orders are the model's
choices (log entries 7, 8 and 9). -/
def Obligations.HostInputBecomesWords : Prop :=
  (∀ (s : State) (txt : Text) (rest : List Stimulus), s.pending = .record txt :: rest →
    (trimRecord txt = [] → step s = .next { s with pending := rest, draws := s.draws + 1 }) ∧
    (trimRecord txt ≠ [] → parseRecord (trimRecord txt) = none →
      step s = .fault (.malformedRecord (s.recordsTaken + 1) (trimRecord txt))) ∧
    (∀ w, trimRecord txt = rawBits w →
      step s = step { s with pending := .ports false true w :: rest, recordsTaken := s.recordsTaken + 1 })) ∧
  (∀ (s : State) (b0 b1 b2 b3 : BitVec 8) (rest : List Stimulus), s.pending = .bytes b0 b1 b2 b3 :: rest →
    (s.params.hostByteOrder = .big →
      step s = step { s with pending := .ports false true (b0 ++ b1 ++ b2 ++ b3) :: rest }) ∧
    (s.params.hostByteOrder = .little →
      step s = step { s with pending := .ports false true (b3 ++ b2 ++ b1 ++ b0) :: rest }))

/-! ### Runs -/

/-- R651, R653, R100 to R104: every step keeps the invariant that the listing is the closed form of the words taken since
reset, and the four state elements are those of that listing. -/
def Obligations.StepKeepsTheListingInvariant : Prop :=
  ∀ s t : State, Inv s → step s = .next t → Inv t

/-- The invariant holds right after reset. -/
def Obligations.ResetHasTheListingInvariant : Prop := Inv State.reset

/-- R652: in a state that tracks its listing, a step renders its word as data exactly when a BREAK has already been
decoded as code and the word's own address has reached the threshold; otherwise the word is decoded as code. -/
def Obligations.TwoConditionGating : Prop :=
  ∀ (s t : State) (w : Word), Inv s → step s = .next t → presentedWord s = some w →
    (t.listing = s.listing ++ [.data s.addr w] ↔
      (firstBreak s.params.rFunctExtra (wordsOf s.listing)).isSome = true ∧
        s.params.dataThreshold.toNat ≤ s.addr.toNat) ∧
    (¬ ((firstBreak s.params.rFunctExtra (wordsOf s.listing)).isSome = true ∧
        s.params.dataThreshold.toNat ≤ s.addr.toNat) →
      ∃ d : Decoded, t.listing = s.listing ++ [.code s.addr w d.format d.mnem d.form d.operands])

/-- R653, R651, R912: a reset step and then any words, one a step, from any state: as long as the addresses stay below
the counter's top the run completes, and its listing is the closed form. -/
def Obligations.RunListsTheClosedForm : Prop :=
  ∀ (s : State) (v : Bool) (w : Word) (ws : List Word) (rest : List Stimulus),
    s.pending = .ports true v w :: (presentAll ws ++ rest) →
    s.params.codeBase.toNat + 4 * ws.length < 2 ^ 32 + 4 →
    ∃ t, core.run (ws.length + 1) s = .next t ∧ t.listing = splitListing s.params ws ∧ t.pending = rest ∧
      t.addr = s.params.codeBase + BitVec.ofNat 32 (4 * ws.length)

/-- R206: the same stream after a reset gives the same listing, or stops in the same way, whatever the block held
before the reset. -/
def Obligations.SameStreamSameListing : Prop :=
  ∀ (s u : State) (v : Bool) (w : Word) (es rest rest' : List Stimulus) (n : Nat),
    s.params = u.params → s.pending = .ports true v w :: (es ++ rest) →
    u.pending = .ports true v w :: (es ++ rest') → n ≤ es.length + 1 → 1 ≤ n →
    (∃ t t', core.run n s = .next t ∧ core.run n u = .next t' ∧ t.listing = t'.listing) ∨
    (∃ f, core.run n s = .fault f ∧ core.run n u = .fault f)

/-! ### Ports and rendering -/

/-- R112, R114: the output ports of a step that processes a word show the record it emits; the state ports show the
state before the step. -/
def Obligations.PortsShowTheRecord : Prop :=
  ∀ (s t : State) (w : Word) (rest : List Stimulus), s.pending = .ports false true w :: rest →
    step s = .next t →
    let p := outPorts s false true w
    p.outValid = true ∧ p.outFault = false ∧ p.outAddr = s.addr ∧ p.outWord = w ∧ p.stAddr = s.addr ∧
    p.stSentinel = s.sentinel ∧ (p.stMode = true ↔ s.mode = .data) ∧ p.stOvf = s.ovf ∧
    ∃ r, t.listing = s.listing ++ [r] ∧
      match r with
      | .data a v => p.outKind = true ∧ a = p.outAddr ∧ v = p.outWord
      | .code a v fmt m form ops =>
        p.outKind = false ∧ a = p.outAddr ∧ v = p.outWord ∧ p.outFormat = formatId fmt ∧
        p.outMnem = mnemonicId m ∧ p.outForm = formId form ∧ p.outNops.toNat = ops.length ∧ ops.length ≤ 3 ∧
        SlotShows p.outOp0 ops[0]? ∧ SlotShows p.outOp1 ops[1]? ∧ SlotShows p.outOp2 ops[2]?

/-- R113: the mnemonics, in the order of the table, have the ids 0 to 54 and the source's spellings; `out_mnem` carries
the id of a word processed as code; no such id is above 54, and the seven extra ids appear only under `mips1`. -/
def Obligations.MnemonicIds : Prop :=
  let all : List Mnemonic :=
    [.nop, .sll, .srl, .sra, .sllv, .srlv, .srav, .jr, .jalr, .syscall, .brk, .mfhi, .mthi, .mflo, .mtlo, .mult,
      .multu, .div, .divu, .add, .addu, .sub, .subu, .and, .or, .xor, .nor, .slt, .sltu, .beq, .bne, .blez, .bgtz,
      .addi, .addiu, .slti, .andi, .ori, .xori, .lui, .lb, .lh, .lw, .lbu, .lhu, .sb, .sh, .sw, .bltz, .bgez,
      .bltzal, .bgezal, .j, .jal, .unknown]
  all.map mnemonicId = (List.range 55).map (BitVec.ofNat 6) ∧
  all.map mnemonicText =
    (["NOP", "SLL", "SRL", "SRA", "SLLV", "SRLV", "SRAV", "JR", "JALR", "SYSCALL", "BREAK", "MFHI", "MTHI", "MFLO",
      "MTLO", "MULT", "MULTU", "DIV", "DIVU", "ADD", "ADDU", "SUB", "SUBU", "AND", "OR", "XOR", "NOR", "SLT", "SLTU",
      "BEQ", "BNE", "BLEZ", "BGTZ", "ADDI", "ADDIU", "SLTI", "ANDI", "ORI", "XORI", "LUI", "LB", "LH", "LW", "LBU",
      "LHU", "SB", "SH", "SW", "BLTZ", "BGEZ", "BLTZAL", "BGEZAL", "J", "JAL", "UNKNOWN"].map String.toList) ∧
  (∀ (s : State) (w : Word), s.ovf = false → isData s = false →
    (outPorts s false true w).outMnem = mnemonicId (mnemonicOf s.params.rFunctExtra w)) ∧
  (∀ (x : RFunctExtra) (w : Word), (mnemonicId (mnemonicOf x w)).toNat ≤ 54) ∧
  (∀ w : Word, (mnemonicId (mnemonicOf .none w)).toNat ∉ [15, 16, 17, 18, 20, 22, 28])

/-- R662: a grouped word has 37 characters, exactly the five at the field boundaries are spaces, and the others are
the word's 32 characters from `w[31]` to `w[0]` in order. -/
def Obligations.GroupedBitsSplitAtFields : Prop :=
  ∀ w : Word, (groupedBits w).length = 37 ∧
    (groupedBits w).filter (fun c => c != ' ') =
      ((List.range 32).map fun k => if w.getLsbD (31 - k) then '1' else '0') ∧
    (∀ k < 37, (groupedBits w)[k]? = some ' ' ↔ k ∈ [6, 12, 18, 24, 30])

/-- R8, R663: character `i` of a word's text is its bit `31 - i`, and the text read back by base-2 parsing is the word;
a text is read exactly when it is 32 characters from `0` and `1` (R803). -/
def Obligations.WordTextRoundTrips : Prop :=
  (∀ w : Word, parseRecord (rawBits w) = some w) ∧
  (∀ (w : Word) (i : Nat), i < 32 → ((rawBits w)[i]? = some '1' ↔ w.getLsbD (31 - i) = true)) ∧
  (∀ t : Text, parseRecord t = none ↔ t.length ≠ 32 ∨ ∃ c ∈ t, c ≠ '0' ∧ c ≠ '1') ∧
  (∀ (t : Text) (w : Word), parseRecord t = some w → rawBits w = t)

/-- D14 (R9, R660): a number's spelling is decimal digits whose value is the number, with no leading zero; a negative
integer's is `-` and the spelling of its magnitude. -/
def Obligations.DecimalSpelling : Prop :=
  (∀ n : Nat, decimalValue (decNat n) = n ∧ (decNat n).all Char.isDigit = true ∧ decNat n ≠ [] ∧
    (n ≠ 0 → (decNat n).head? ≠ some '0')) ∧
  (∀ n : Nat, dec (n : Int) = decNat n ∧ dec (-((n : Int) + 1)) = '-' :: decNat (n + 1))

/-- R660: the text of each kind of operand, and the separator between operands. -/
def Obligations.OperandTexts : Prop :=
  (∀ n : RegIndex, operandText (.reg n) = 'R' :: decNat n.toNat) ∧
  (∀ v : Int, operandText (.imm v) = '#' :: dec v) ∧
  (∀ v : Nat, operandText (.uimm v) = '#' :: decNat v ∧ operandText (.addr v) = '#' :: decNat v) ∧
  (∀ (off : Int) (base : RegIndex),
    operandText (.mem off base) = '#' :: dec off ++ ['(', 'R'] ++ decNat base.toNat ++ [')']) ∧
  (∀ ops : List Operand, operandsText ops = (", ".toList).intercalate (ops.map operandText)) ∧
  dec (-1) = "-1".toList ∧ dec 400 = "400".toList

/-- R661, R663: the shapes of the two lines, `raw(w)` being the word's 32 characters with no spaces, with the examples
of the spec's rendering vectors. -/
def Obligations.LineShapes : Prop :=
  (∀ w : Word, rawBits w = (List.range 32).map fun k => if w.getLsbD (31 - k) then '1' else '0') ∧
  (∀ (a w : Word) (fmt : Format) (m : Mnemonic) (form : Form) (ops : List Operand),
    recordLine (.code a w fmt m form ops) =
      groupedBits w ++ "\t".toList ++ decNat a.toNat ++ "\t".toList ++ mnemonicText m ++
        (if ops = [] then [] else "\t".toList ++ operandsText ops)) ∧
  (∀ a w : Word, recordLine (.data a w) =
    rawBits w ++ "      ".toList ++ "\t".toList ++ decNat a.toNat ++ "\t".toList ++ decNat w.toNat) ∧
  recordLine (.code 96#32 0x2022FFFF#32 .i .addi .rtRsSimm [.reg 2, .reg 1, .imm (-1)]) =
    "001000 00001 00010 11111 11111 111111\t96\tADDI\tR2, R1, #-1".toList ∧
  recordLine (.data 36#32 0xFFFFFFFF#32) = "11111111111111111111111111111111      \t36\t4294967295".toList
end

