-- ==== Sys2Proof/Laws/Fields.lean ====
section
/-! SUPPORT. The fields of a word as numbers, the fields of the words the encoder builds, and a word put back together
from its fields (R300 to R304). -/

namespace Sys2Proof

/-- Concatenation as arithmetic. -/
theorem toNat_append_eq_add {m n : Nat} (a : BitVec m) (b : BitVec n) :
    (a ++ b).toNat = a.toNat * 2 ^ n + b.toNat := by
  rw [BitVec.toNat_append, ← Nat.shiftLeft_add_eq_or_of_lt b.isLt, Nat.shiftLeft_eq]

theorem opcodeOf_toNat (w : Word) : (opcodeOf w).toNat = w.toNat / 2 ^ 26 % 2 ^ 6 := by
  simp [opcodeOf, BitVec.extractLsb'_toNat, Nat.shiftRight_eq_div_pow]

theorem rsOf_toNat (w : Word) : (rsOf w).toNat = w.toNat / 2 ^ 21 % 2 ^ 5 := by
  simp [rsOf, BitVec.extractLsb'_toNat, Nat.shiftRight_eq_div_pow]

theorem rtOf_toNat (w : Word) : (rtOf w).toNat = w.toNat / 2 ^ 16 % 2 ^ 5 := by
  simp [rtOf, BitVec.extractLsb'_toNat, Nat.shiftRight_eq_div_pow]

theorem rdOf_toNat (w : Word) : (rdOf w).toNat = w.toNat / 2 ^ 11 % 2 ^ 5 := by
  simp [rdOf, BitVec.extractLsb'_toNat, Nat.shiftRight_eq_div_pow]

theorem shamtOf_toNat (w : Word) : (shamtOf w).toNat = w.toNat / 2 ^ 6 % 2 ^ 5 := by
  simp [shamtOf, BitVec.extractLsb'_toNat, Nat.shiftRight_eq_div_pow]

theorem functOf_toNat (w : Word) : (functOf w).toNat = w.toNat % 2 ^ 6 := by
  simp [functOf, BitVec.extractLsb'_toNat, Nat.shiftRight_eq_div_pow]

theorem imm16Of_toNat (w : Word) : (imm16Of w).toNat = w.toNat % 2 ^ 16 := by
  simp [imm16Of, BitVec.extractLsb'_toNat, Nat.shiftRight_eq_div_pow]

theorem target26Of_toNat (w : Word) : (target26Of w).toNat = w.toNat % 2 ^ 26 := by
  simp [target26Of, BitVec.extractLsb'_toNat, Nat.shiftRight_eq_div_pow]

theorem registerWord_toNat (rs rt rd shamt : RegIndex) (funct : BitVec 6) :
    (registerWord rs rt rd shamt funct).toNat =
      rs.toNat * 2 ^ 21 + rt.toNat * 2 ^ 16 + rd.toNat * 2 ^ 11 + shamt.toNat * 2 ^ 6 + funct.toNat := by
  simp only [registerWord, toNat_append_eq_add, BitVec.toNat_ofNat]
  omega

theorem immediateWord_toNat (opcode : BitVec 6) (rs rt : RegIndex) (imm : BitVec 16) :
    (immediateWord opcode rs rt imm).toNat =
      opcode.toNat * 2 ^ 26 + rs.toNat * 2 ^ 21 + rt.toNat * 2 ^ 16 + imm.toNat := by
  simp only [immediateWord, toNat_append_eq_add]
  omega

theorem jumpWord_toNat (opcode : BitVec 6) (target : BitVec 26) :
    (jumpWord opcode target).toNat = opcode.toNat * 2 ^ 26 + target.toNat := by
  simp only [jumpWord, toNat_append_eq_add]

@[simp] theorem opcodeOf_registerWord (rs rt rd shamt : RegIndex) (funct : BitVec 6) :
    opcodeOf (registerWord rs rt rd shamt funct) = 0#6 := by
  apply BitVec.eq_of_toNat_eq
  rw [opcodeOf_toNat, registerWord_toNat]
  simp only [BitVec.toNat_ofNat]
  omega

@[simp] theorem rsOf_registerWord (rs rt rd shamt : RegIndex) (funct : BitVec 6) :
    rsOf (registerWord rs rt rd shamt funct) = rs := by
  apply BitVec.eq_of_toNat_eq
  rw [rsOf_toNat, registerWord_toNat]
  omega

@[simp] theorem rtOf_registerWord (rs rt rd shamt : RegIndex) (funct : BitVec 6) :
    rtOf (registerWord rs rt rd shamt funct) = rt := by
  apply BitVec.eq_of_toNat_eq
  rw [rtOf_toNat, registerWord_toNat]
  omega

@[simp] theorem rdOf_registerWord (rs rt rd shamt : RegIndex) (funct : BitVec 6) :
    rdOf (registerWord rs rt rd shamt funct) = rd := by
  apply BitVec.eq_of_toNat_eq
  rw [rdOf_toNat, registerWord_toNat]
  omega

@[simp] theorem shamtOf_registerWord (rs rt rd shamt : RegIndex) (funct : BitVec 6) :
    shamtOf (registerWord rs rt rd shamt funct) = shamt := by
  apply BitVec.eq_of_toNat_eq
  rw [shamtOf_toNat, registerWord_toNat]
  omega

@[simp] theorem functOf_registerWord (rs rt rd shamt : RegIndex) (funct : BitVec 6) :
    functOf (registerWord rs rt rd shamt funct) = funct := by
  apply BitVec.eq_of_toNat_eq
  rw [functOf_toNat, registerWord_toNat]
  omega

@[simp] theorem opcodeOf_immediateWord (opcode : BitVec 6) (rs rt : RegIndex) (imm : BitVec 16) :
    opcodeOf (immediateWord opcode rs rt imm) = opcode := by
  apply BitVec.eq_of_toNat_eq
  rw [opcodeOf_toNat, immediateWord_toNat]
  omega

@[simp] theorem rsOf_immediateWord (opcode : BitVec 6) (rs rt : RegIndex) (imm : BitVec 16) :
    rsOf (immediateWord opcode rs rt imm) = rs := by
  apply BitVec.eq_of_toNat_eq
  rw [rsOf_toNat, immediateWord_toNat]
  omega

@[simp] theorem rtOf_immediateWord (opcode : BitVec 6) (rs rt : RegIndex) (imm : BitVec 16) :
    rtOf (immediateWord opcode rs rt imm) = rt := by
  apply BitVec.eq_of_toNat_eq
  rw [rtOf_toNat, immediateWord_toNat]
  omega

@[simp] theorem imm16Of_immediateWord (opcode : BitVec 6) (rs rt : RegIndex) (imm : BitVec 16) :
    imm16Of (immediateWord opcode rs rt imm) = imm := by
  apply BitVec.eq_of_toNat_eq
  rw [imm16Of_toNat, immediateWord_toNat]
  omega

@[simp] theorem opcodeOf_jumpWord (opcode : BitVec 6) (target : BitVec 26) :
    opcodeOf (jumpWord opcode target) = opcode := by
  apply BitVec.eq_of_toNat_eq
  rw [opcodeOf_toNat, jumpWord_toNat]
  omega

@[simp] theorem target26Of_jumpWord (opcode : BitVec 6) (target : BitVec 26) :
    target26Of (jumpWord opcode target) = target := by
  apply BitVec.eq_of_toNat_eq
  rw [target26Of_toNat, jumpWord_toNat]
  omega

/-- A register-format word is its fields (R302). -/
theorem registerWord_fields {w : Word} (h : opcodeOf w = 0#6) :
    registerWord (rsOf w) (rtOf w) (rdOf w) (shamtOf w) (functOf w) = w := by
  apply BitVec.eq_of_toNat_eq
  have h' := congrArg BitVec.toNat h
  simp only [opcodeOf_toNat, BitVec.toNat_ofNat] at h'
  rw [registerWord_toNat, rsOf_toNat, rtOf_toNat, rdOf_toNat, shamtOf_toNat, functOf_toNat]
  omega

/-- Any word is its opcode, `rs`, `rt` and `imm16` (R303). -/
theorem immediateWord_fields (w : Word) : immediateWord (opcodeOf w) (rsOf w) (rtOf w) (imm16Of w) = w := by
  apply BitVec.eq_of_toNat_eq
  rw [immediateWord_toNat, opcodeOf_toNat, rsOf_toNat, rtOf_toNat, imm16Of_toNat]
  omega

/-- Any word is its opcode and `target26` (R304). -/
theorem jumpWord_fields (w : Word) : jumpWord (opcodeOf w) (target26Of w) = w := by
  apply BitVec.eq_of_toNat_eq
  rw [jumpWord_toNat, opcodeOf_toNat, target26Of_toNat]
  omega

end Sys2Proof
end

