-- ==== Sys2Proof/Laws/Listing.lean ====
section
/-! SUPPORT. The rendering of words, operands and records, one equation each. -/

namespace Sys2Proof.Machine

@[simp] theorem rawBits_length (w : Word) : (rawBits w).length = 32 := by simp [rawBits]

@[simp] theorem operandText_reg (n : RegIndex) : operandText (.reg n) = registerName n := rfl
@[simp] theorem operandText_imm (v : Int) : operandText (.imm v) = '#' :: dec v := rfl
@[simp] theorem operandText_uimm (v : Nat) : operandText (.uimm v) = '#' :: decNat v := rfl
@[simp] theorem operandText_mem (off : Int) (base : RegIndex) :
    operandText (.mem off base) = '#' :: (dec off ++ "(".toList ++ registerName base ++ ")".toList) := rfl
@[simp] theorem operandText_addr (v : Nat) : operandText (.addr v) = '#' :: decNat v := rfl

@[simp] theorem recordWord_code (a w : Word) (fmt : Format) (m : Mnemonic) (form : Form) (ops : List Operand) :
    recordWord (.code a w fmt m form ops) = w := rfl
@[simp] theorem recordWord_data (a w : Word) : recordWord (.data a w) = w := rfl
@[simp] theorem recordAddr_code (a w : Word) (fmt : Format) (m : Mnemonic) (form : Form) (ops : List Operand) :
    recordAddr (.code a w fmt m form ops) = a := rfl
@[simp] theorem recordAddr_data (a w : Word) : recordAddr (.data a w) = a := rfl

/-- Every character of a word's raw text may stand in a record (R8, R803). -/
theorem rawBits_all_isBitChar (w : Word) : (rawBits w).all isBitChar = true := by
  simp only [rawBits, List.all_map, List.all_eq_true]
  intro k _
  simp only [Function.comp, bitChar]
  split <;> decide

end Sys2Proof.Machine
end

