-- ==== Sys2Proof/Laws/State.lean ====
section
/-! SUPPORT. Every field of the state after every named update of Machine/Ops.lean. -/

namespace Sys2Proof.Machine

@[simp] theorem State.emit_addr (r : Record) (s : State) : (s.emit r).addr = s.addr := rfl
@[simp] theorem State.emit_sentinel (r : Record) (s : State) : (s.emit r).sentinel = s.sentinel := rfl
@[simp] theorem State.emit_mode (r : Record) (s : State) : (s.emit r).mode = s.mode := rfl
@[simp] theorem State.emit_ovf (r : Record) (s : State) : (s.emit r).ovf = s.ovf := rfl
@[simp] theorem State.emit_params (r : Record) (s : State) : (s.emit r).params = s.params := rfl
@[simp] theorem State.emit_resetDone (r : Record) (s : State) : (s.emit r).resetDone = s.resetDone := rfl
@[simp] theorem State.emit_pending (r : Record) (s : State) : (s.emit r).pending = s.pending := rfl
@[simp] theorem State.emit_listing (r : Record) (s : State) : (s.emit r).listing = s.listing ++ [r] := rfl
@[simp] theorem State.emit_pastListings (r : Record) (s : State) : (s.emit r).pastListings = s.pastListings := rfl
@[simp] theorem State.emit_recordsTaken (r : Record) (s : State) : (s.emit r).recordsTaken = s.recordsTaken := rfl
@[simp] theorem State.emit_draws (r : Record) (s : State) : (s.emit r).draws = s.draws := rfl

@[simp] theorem State.advance_addr (s : State) : (s.advance).addr = s.addr + 4#32 := rfl
@[simp] theorem State.advance_sentinel (s : State) : (s.advance).sentinel = s.sentinel := rfl
@[simp] theorem State.advance_mode (s : State) : (s.advance).mode = s.mode := rfl
@[simp] theorem State.advance_ovf (s : State) : (s.advance).ovf = (s.ovf || passesTop s.addr) := rfl
@[simp] theorem State.advance_params (s : State) : (s.advance).params = s.params := rfl
@[simp] theorem State.advance_resetDone (s : State) : (s.advance).resetDone = s.resetDone := rfl
@[simp] theorem State.advance_pending (s : State) : (s.advance).pending = s.pending := rfl
@[simp] theorem State.advance_listing (s : State) : (s.advance).listing = s.listing := rfl
@[simp] theorem State.advance_pastListings (s : State) : (s.advance).pastListings = s.pastListings := rfl
@[simp] theorem State.advance_recordsTaken (s : State) : (s.advance).recordsTaken = s.recordsTaken := rfl
@[simp] theorem State.advance_draws (s : State) : (s.advance).draws = s.draws := rfl

@[simp] theorem State.noteMnemonic_addr (m : Mnemonic) (s : State) : (s.noteMnemonic m).addr = s.addr := rfl
@[simp] theorem State.noteMnemonic_sentinel (m : Mnemonic) (s : State) : (s.noteMnemonic m).sentinel = sentinelAfter m s.sentinel := rfl
@[simp] theorem State.noteMnemonic_mode (m : Mnemonic) (s : State) : (s.noteMnemonic m).mode = s.mode := rfl
@[simp] theorem State.noteMnemonic_ovf (m : Mnemonic) (s : State) : (s.noteMnemonic m).ovf = s.ovf := rfl
@[simp] theorem State.noteMnemonic_params (m : Mnemonic) (s : State) : (s.noteMnemonic m).params = s.params := rfl
@[simp] theorem State.noteMnemonic_resetDone (m : Mnemonic) (s : State) : (s.noteMnemonic m).resetDone = s.resetDone := rfl
@[simp] theorem State.noteMnemonic_pending (m : Mnemonic) (s : State) : (s.noteMnemonic m).pending = s.pending := rfl
@[simp] theorem State.noteMnemonic_listing (m : Mnemonic) (s : State) : (s.noteMnemonic m).listing = s.listing := rfl
@[simp] theorem State.noteMnemonic_pastListings (m : Mnemonic) (s : State) : (s.noteMnemonic m).pastListings = s.pastListings := rfl
@[simp] theorem State.noteMnemonic_recordsTaken (m : Mnemonic) (s : State) : (s.noteMnemonic m).recordsTaken = s.recordsTaken := rfl
@[simp] theorem State.noteMnemonic_draws (m : Mnemonic) (s : State) : (s.noteMnemonic m).draws = s.draws := rfl

@[simp] theorem State.enterData_addr (s : State) : (s.enterData).addr = s.addr := rfl
@[simp] theorem State.enterData_sentinel (s : State) : (s.enterData).sentinel = s.sentinel := rfl
@[simp] theorem State.enterData_mode (s : State) : (s.enterData).mode = .data := rfl
@[simp] theorem State.enterData_ovf (s : State) : (s.enterData).ovf = s.ovf := rfl
@[simp] theorem State.enterData_params (s : State) : (s.enterData).params = s.params := rfl
@[simp] theorem State.enterData_resetDone (s : State) : (s.enterData).resetDone = s.resetDone := rfl
@[simp] theorem State.enterData_pending (s : State) : (s.enterData).pending = s.pending := rfl
@[simp] theorem State.enterData_listing (s : State) : (s.enterData).listing = s.listing := rfl
@[simp] theorem State.enterData_pastListings (s : State) : (s.enterData).pastListings = s.pastListings := rfl
@[simp] theorem State.enterData_recordsTaken (s : State) : (s.enterData).recordsTaken = s.recordsTaken := rfl
@[simp] theorem State.enterData_draws (s : State) : (s.enterData).draws = s.draws := rfl

@[simp] theorem State.tick_addr (rest : List Stimulus) (s : State) : (s.tick rest).addr = s.addr := rfl
@[simp] theorem State.tick_sentinel (rest : List Stimulus) (s : State) : (s.tick rest).sentinel = s.sentinel := rfl
@[simp] theorem State.tick_mode (rest : List Stimulus) (s : State) : (s.tick rest).mode = s.mode := rfl
@[simp] theorem State.tick_ovf (rest : List Stimulus) (s : State) : (s.tick rest).ovf = s.ovf := rfl
@[simp] theorem State.tick_params (rest : List Stimulus) (s : State) : (s.tick rest).params = s.params := rfl
@[simp] theorem State.tick_resetDone (rest : List Stimulus) (s : State) : (s.tick rest).resetDone = s.resetDone := rfl
@[simp] theorem State.tick_pending (rest : List Stimulus) (s : State) : (s.tick rest).pending = rest := rfl
@[simp] theorem State.tick_listing (rest : List Stimulus) (s : State) : (s.tick rest).listing = s.listing := rfl
@[simp] theorem State.tick_pastListings (rest : List Stimulus) (s : State) : (s.tick rest).pastListings = s.pastListings := rfl
@[simp] theorem State.tick_recordsTaken (rest : List Stimulus) (s : State) : (s.tick rest).recordsTaken = s.recordsTaken := rfl
@[simp] theorem State.tick_draws (rest : List Stimulus) (s : State) : (s.tick rest).draws = s.draws + 1 := rfl

@[simp] theorem resetBlock_addr (s : State) : (resetBlock s).addr = s.params.codeBase := rfl
@[simp] theorem resetBlock_sentinel (s : State) : (resetBlock s).sentinel = false := rfl
@[simp] theorem resetBlock_mode (s : State) : (resetBlock s).mode = .code := rfl
@[simp] theorem resetBlock_ovf (s : State) : (resetBlock s).ovf = false := rfl
@[simp] theorem resetBlock_params (s : State) : (resetBlock s).params = s.params := rfl
@[simp] theorem resetBlock_resetDone (s : State) : (resetBlock s).resetDone = true := rfl
@[simp] theorem resetBlock_pending (s : State) : (resetBlock s).pending = s.pending := rfl
@[simp] theorem resetBlock_listing (s : State) : (resetBlock s).listing = [] := rfl
@[simp] theorem resetBlock_pastListings (s : State) : (resetBlock s).pastListings = if s.resetDone then s.pastListings ++ [s.listing] else s.pastListings := rfl
@[simp] theorem resetBlock_recordsTaken (s : State) : (resetBlock s).recordsTaken = 0 := rfl
@[simp] theorem resetBlock_draws (s : State) : (resetBlock s).draws = s.draws := rfl

end Sys2Proof.Machine
end

