-- ==== Sys2Proof/Laws/Ops.lean ====
section
/-! SUPPORT. What each shared operation can do, said once: the code and data branches field by field, and that every
instruction's meaning is one code branch over its own word. -/

namespace Sys2Proof.Machine

theorem passesTop_eq_true (a : Word) : passesTop a = true ↔ 2 ^ 32 ≤ a.toNat + 4 := by simp [passesTop]

theorem isData_eq_true (s : State) :
    isData s = true ↔ s.mode = .data ∨ (s.sentinel = true ∧ s.params.dataThreshold.toNat ≤ s.addr.toNat) := by
  simp [isData, thresholdReached]

/-- The code branch writes exactly the listing, the sentinel, the address and the overflow flag. -/
theorem codeWord_eq (w : Word) (fmt : Format) (m : Mnemonic) (form : Form) (ops : List Operand) (s : State) :
    codeWord w fmt m form ops s = afterCode w ⟨fmt, m, form, ops⟩ s := by
  cases hs : s.sentinel <;> by_cases hm : m = .brk <;>
    simp [codeWord, afterCode, State.emit, State.noteMnemonic, State.advance, sentinelAfter, passesTop, hs, hm,
      Bool.or_comm]

/-- The data branch writes exactly the listing, the mode, the address and the overflow flag. -/
theorem dataWord_eq (w : Word) (s : State) : dataWord w s = afterData w s := by
  simp [dataWord, afterData, State.emit, State.enterData, State.advance, passesTop, Bool.or_comm]

/-- Every instruction runs, and is one code branch over its own word. -/
theorem exec_cases (i : Instr) :
    ∃ d : Decoded, ∀ s, exec i s = .next (codeWord (encode i) d.format d.mnem d.form d.operands s) := by
  cases i <;> exact ⟨⟨_, _, _, _⟩, fun _ => rfl⟩

end Sys2Proof.Machine
end

