-- ==== Sys2Proof/Laws/Tables.lean ====
section
/-! SUPPORT. The mnemonic tables' lookup and the format dispatch. -/

namespace Sys2Proof

/-- An absent key resolves to UNKNOWN (R10). -/
theorem lookupKey_of_not_isKey {n : Nat} {table : List (BitVec n × Mnemonic)} {k : BitVec n}
    (h : isKey table k = false) : lookupKey table k = .unknown := by
  induction table with
  | nil => rfl
  | cons row rest ih =>
    obtain ⟨key, m⟩ := row
    simp only [isKey, List.any_cons, Bool.or_eq_false_iff, beq_eq_false_iff_ne] at h
    simp only [lookupKey, if_neg h.1]
    exact ih h.2

/-- A key of a table whose entries are all named resolves to a name. -/
theorem lookupKey_ne_unknown {n : Nat} {table : List (BitVec n × Mnemonic)} {k : BitVec n}
    (named : ∀ row ∈ table, row.2 ≠ .unknown) (h : isKey table k = true) : lookupKey table k ≠ .unknown := by
  induction table with
  | nil => simp [isKey] at h
  | cons row rest ih =>
    obtain ⟨key, m⟩ := row
    simp only [lookupKey]
    by_cases hk : k = key
    · simpa [hk] using named (key, m) (by simp)
    · rw [if_neg hk]
      refine ih (fun row hr => named row (by simp [hr])) ?_
      simpa [isKey, hk] using h

theorem formatOfOpcode_eq_r (op : BitVec 6) : formatOfOpcode op = .r ↔ op = 0x00#6 := by
  revert op; decide

theorem formatOfOpcode_eq_j (op : BitVec 6) : formatOfOpcode op = .j ↔ op = 0x02#6 ∨ op = 0x03#6 := by
  revert op; decide

theorem formatOfOpcode_eq_i (op : BitVec 6) :
    formatOfOpcode op = .i ↔ op ≠ 0x00#6 ∧ op ≠ 0x02#6 ∧ op ≠ 0x03#6 := by
  revert op; decide

end Sys2Proof
end

