-- ==== Sys2Proof/Laws/PerInstr.lean ====
section
/-! SUPPORT. Facts stated once per instruction of the syntax. The family `EncodedFormat`: a well-formed instruction's
word is of the instruction's own format (R302 to R304). -/

namespace Sys2Proof

/-- The format of the table row a constructor stands for. -/
def instrFormat : Instr → Format
  | .nop => .r
  | .sll _ _ _ _ => .r
  | .srl _ _ _ _ => .r
  | .sra _ _ _ _ => .r
  | .sllv _ _ _ _ => .r
  | .srlv _ _ _ _ => .r
  | .srav _ _ _ _ => .r
  | .jr _ _ _ _ => .r
  | .jalr _ _ _ _ => .r
  | .syscall _ _ _ _ => .r
  | .brk _ _ _ _ => .r
  | .mfhi _ _ _ _ => .r
  | .mthi _ _ _ _ => .r
  | .mflo _ _ _ _ => .r
  | .mtlo _ _ _ _ => .r
  | .mult _ _ _ _ => .r
  | .multu _ _ _ _ => .r
  | .div _ _ _ _ => .r
  | .divu _ _ _ _ => .r
  | .add _ _ _ _ => .r
  | .addu _ _ _ _ => .r
  | .sub _ _ _ _ => .r
  | .subu _ _ _ _ => .r
  | .and _ _ _ _ => .r
  | .or _ _ _ _ => .r
  | .xor _ _ _ _ => .r
  | .nor _ _ _ _ => .r
  | .slt _ _ _ _ => .r
  | .sltu _ _ _ _ => .r
  | .unknownR _ _ _ _ _ => .r
  | .bltz _ _ => .i
  | .bgez _ _ => .i
  | .bltzal _ _ => .i
  | .bgezal _ _ => .i
  | .unknownRegimm _ _ _ => .i
  | .beq _ _ _ => .i
  | .bne _ _ _ => .i
  | .blez _ _ _ => .i
  | .bgtz _ _ _ => .i
  | .addi _ _ _ => .i
  | .addiu _ _ _ => .i
  | .slti _ _ _ => .i
  | .andi _ _ _ => .i
  | .ori _ _ _ => .i
  | .xori _ _ _ => .i
  | .lui _ _ _ => .i
  | .lb _ _ _ => .i
  | .lh _ _ _ => .i
  | .lw _ _ _ => .i
  | .lbu _ _ _ => .i
  | .lhu _ _ _ => .i
  | .sb _ _ _ => .i
  | .sh _ _ _ => .i
  | .sw _ _ _ => .i
  | .j _ => .j
  | .jal _ => .j
  | .unknownI _ _ _ _ => .i

theorem formatOf_registerWord (rs rt rd shamt : RegIndex) (funct : BitVec 6) :
    formatOf (registerWord rs rt rd shamt funct) = .r := by
  rw [formatOf, opcodeOf_registerWord]; rfl

theorem formatOf_immediateWord (opcode : BitVec 6) (rs rt : RegIndex) (imm : BitVec 16) :
    formatOf (immediateWord opcode rs rt imm) = formatOfOpcode opcode := by
  rw [formatOf, opcodeOf_immediateWord]

theorem formatOf_jumpWord (opcode : BitVec 6) (target : BitVec 26) :
    formatOf (jumpWord opcode target) = formatOfOpcode opcode := by
  rw [formatOf, opcodeOf_jumpWord]

namespace Laws

/-- The family's statement. -/
def EncodedFormat.Statement (i : Instr) : Prop :=
  ∀ x : RFunctExtra, wellFormed x i = true → formatOf (encode i) = instrFormat i

namespace EncodedFormat

theorem nop : Statement .nop := fun _ _ => rfl
theorem sll (rs rt rd shamt : RegIndex) : Statement (.sll rs rt rd shamt) := fun _ _ => formatOf_registerWord ..
theorem srl (rs rt rd shamt : RegIndex) : Statement (.srl rs rt rd shamt) := fun _ _ => formatOf_registerWord ..
theorem sra (rs rt rd shamt : RegIndex) : Statement (.sra rs rt rd shamt) := fun _ _ => formatOf_registerWord ..
theorem sllv (rs rt rd shamt : RegIndex) : Statement (.sllv rs rt rd shamt) := fun _ _ => formatOf_registerWord ..
theorem srlv (rs rt rd shamt : RegIndex) : Statement (.srlv rs rt rd shamt) := fun _ _ => formatOf_registerWord ..
theorem srav (rs rt rd shamt : RegIndex) : Statement (.srav rs rt rd shamt) := fun _ _ => formatOf_registerWord ..
theorem jr (rs rt rd shamt : RegIndex) : Statement (.jr rs rt rd shamt) := fun _ _ => formatOf_registerWord ..
theorem jalr (rs rt rd shamt : RegIndex) : Statement (.jalr rs rt rd shamt) := fun _ _ => formatOf_registerWord ..
theorem syscall (rs rt rd shamt : RegIndex) : Statement (.syscall rs rt rd shamt) := fun _ _ => formatOf_registerWord ..
theorem brk (rs rt rd shamt : RegIndex) : Statement (.brk rs rt rd shamt) := fun _ _ => formatOf_registerWord ..
theorem mfhi (rs rt rd shamt : RegIndex) : Statement (.mfhi rs rt rd shamt) := fun _ _ => formatOf_registerWord ..
theorem mthi (rs rt rd shamt : RegIndex) : Statement (.mthi rs rt rd shamt) := fun _ _ => formatOf_registerWord ..
theorem mflo (rs rt rd shamt : RegIndex) : Statement (.mflo rs rt rd shamt) := fun _ _ => formatOf_registerWord ..
theorem mtlo (rs rt rd shamt : RegIndex) : Statement (.mtlo rs rt rd shamt) := fun _ _ => formatOf_registerWord ..
theorem mult (rs rt rd shamt : RegIndex) : Statement (.mult rs rt rd shamt) := fun _ _ => formatOf_registerWord ..
theorem multu (rs rt rd shamt : RegIndex) : Statement (.multu rs rt rd shamt) := fun _ _ => formatOf_registerWord ..
theorem div (rs rt rd shamt : RegIndex) : Statement (.div rs rt rd shamt) := fun _ _ => formatOf_registerWord ..
theorem divu (rs rt rd shamt : RegIndex) : Statement (.divu rs rt rd shamt) := fun _ _ => formatOf_registerWord ..
theorem add (rs rt rd shamt : RegIndex) : Statement (.add rs rt rd shamt) := fun _ _ => formatOf_registerWord ..
theorem addu (rs rt rd shamt : RegIndex) : Statement (.addu rs rt rd shamt) := fun _ _ => formatOf_registerWord ..
theorem sub (rs rt rd shamt : RegIndex) : Statement (.sub rs rt rd shamt) := fun _ _ => formatOf_registerWord ..
theorem subu (rs rt rd shamt : RegIndex) : Statement (.subu rs rt rd shamt) := fun _ _ => formatOf_registerWord ..
theorem and (rs rt rd shamt : RegIndex) : Statement (.and rs rt rd shamt) := fun _ _ => formatOf_registerWord ..
theorem or (rs rt rd shamt : RegIndex) : Statement (.or rs rt rd shamt) := fun _ _ => formatOf_registerWord ..
theorem xor (rs rt rd shamt : RegIndex) : Statement (.xor rs rt rd shamt) := fun _ _ => formatOf_registerWord ..
theorem nor (rs rt rd shamt : RegIndex) : Statement (.nor rs rt rd shamt) := fun _ _ => formatOf_registerWord ..
theorem slt (rs rt rd shamt : RegIndex) : Statement (.slt rs rt rd shamt) := fun _ _ => formatOf_registerWord ..
theorem sltu (rs rt rd shamt : RegIndex) : Statement (.sltu rs rt rd shamt) := fun _ _ => formatOf_registerWord ..
theorem unknownR (rs rt rd shamt : RegIndex) (funct : BitVec 6) : Statement (.unknownR rs rt rd shamt funct) := fun _ _ => formatOf_registerWord ..
theorem bltz (rs : RegIndex) (imm : BitVec 16) : Statement (.bltz rs imm) := fun _ _ => formatOf_immediateWord ..
theorem bgez (rs : RegIndex) (imm : BitVec 16) : Statement (.bgez rs imm) := fun _ _ => formatOf_immediateWord ..
theorem bltzal (rs : RegIndex) (imm : BitVec 16) : Statement (.bltzal rs imm) := fun _ _ => formatOf_immediateWord ..
theorem bgezal (rs : RegIndex) (imm : BitVec 16) : Statement (.bgezal rs imm) := fun _ _ => formatOf_immediateWord ..
theorem unknownRegimm (rs rt : RegIndex) (imm : BitVec 16) : Statement (.unknownRegimm rs rt imm) := fun _ _ => formatOf_immediateWord ..
theorem beq (rs rt : RegIndex) (imm : BitVec 16) : Statement (.beq rs rt imm) := fun _ _ => formatOf_immediateWord ..
theorem bne (rs rt : RegIndex) (imm : BitVec 16) : Statement (.bne rs rt imm) := fun _ _ => formatOf_immediateWord ..
theorem blez (rs rt : RegIndex) (imm : BitVec 16) : Statement (.blez rs rt imm) := fun _ _ => formatOf_immediateWord ..
theorem bgtz (rs rt : RegIndex) (imm : BitVec 16) : Statement (.bgtz rs rt imm) := fun _ _ => formatOf_immediateWord ..
theorem addi (rs rt : RegIndex) (imm : BitVec 16) : Statement (.addi rs rt imm) := fun _ _ => formatOf_immediateWord ..
theorem addiu (rs rt : RegIndex) (imm : BitVec 16) : Statement (.addiu rs rt imm) := fun _ _ => formatOf_immediateWord ..
theorem slti (rs rt : RegIndex) (imm : BitVec 16) : Statement (.slti rs rt imm) := fun _ _ => formatOf_immediateWord ..
theorem andi (rs rt : RegIndex) (imm : BitVec 16) : Statement (.andi rs rt imm) := fun _ _ => formatOf_immediateWord ..
theorem ori (rs rt : RegIndex) (imm : BitVec 16) : Statement (.ori rs rt imm) := fun _ _ => formatOf_immediateWord ..
theorem xori (rs rt : RegIndex) (imm : BitVec 16) : Statement (.xori rs rt imm) := fun _ _ => formatOf_immediateWord ..
theorem lui (rs rt : RegIndex) (imm : BitVec 16) : Statement (.lui rs rt imm) := fun _ _ => formatOf_immediateWord ..
theorem lb (rs rt : RegIndex) (imm : BitVec 16) : Statement (.lb rs rt imm) := fun _ _ => formatOf_immediateWord ..
theorem lh (rs rt : RegIndex) (imm : BitVec 16) : Statement (.lh rs rt imm) := fun _ _ => formatOf_immediateWord ..
theorem lw (rs rt : RegIndex) (imm : BitVec 16) : Statement (.lw rs rt imm) := fun _ _ => formatOf_immediateWord ..
theorem lbu (rs rt : RegIndex) (imm : BitVec 16) : Statement (.lbu rs rt imm) := fun _ _ => formatOf_immediateWord ..
theorem lhu (rs rt : RegIndex) (imm : BitVec 16) : Statement (.lhu rs rt imm) := fun _ _ => formatOf_immediateWord ..
theorem sb (rs rt : RegIndex) (imm : BitVec 16) : Statement (.sb rs rt imm) := fun _ _ => formatOf_immediateWord ..
theorem sh (rs rt : RegIndex) (imm : BitVec 16) : Statement (.sh rs rt imm) := fun _ _ => formatOf_immediateWord ..
theorem sw (rs rt : RegIndex) (imm : BitVec 16) : Statement (.sw rs rt imm) := fun _ _ => formatOf_immediateWord ..
theorem j (target : BitVec 26) : Statement (.j target) := fun _ _ => formatOf_jumpWord ..
theorem jal (target : BitVec 26) : Statement (.jal target) := fun _ _ => formatOf_jumpWord ..
theorem unknownI (opcode : BitVec 6) (rs rt : RegIndex) (imm : BitVec 16) : Statement (.unknownI opcode rs rt imm) := by
  intro x h
  simp only [wellFormed, Bool.and_eq_true, beq_iff_eq] at h
  exact (formatOf_immediateWord ..).trans h.1.1

end EncodedFormat

end Laws

end Sys2Proof
end

