-- ==== Sys2Proof/Laws/Step.lean ====
section
/-! SUPPORT. What a step can do, said once. -/

namespace Sys2Proof.Machine

/-- The state the block sees in a step: the stimulus taken, and perhaps a record counted. -/
def State.atPorts (records : Nat) (s : State) : State :=
  { s.tick s.pending.tail with recordsTaken := records }

@[simp] theorem State.atPorts_addr (n : Nat) (s : State) : (s.atPorts n).addr = s.addr := rfl
@[simp] theorem State.atPorts_sentinel (n : Nat) (s : State) : (s.atPorts n).sentinel = s.sentinel := rfl
@[simp] theorem State.atPorts_mode (n : Nat) (s : State) : (s.atPorts n).mode = s.mode := rfl
@[simp] theorem State.atPorts_ovf (n : Nat) (s : State) : (s.atPorts n).ovf = s.ovf := rfl
@[simp] theorem State.atPorts_params (n : Nat) (s : State) : (s.atPorts n).params = s.params := rfl
@[simp] theorem State.atPorts_resetDone (n : Nat) (s : State) : (s.atPorts n).resetDone = s.resetDone := rfl
@[simp] theorem State.atPorts_pending (n : Nat) (s : State) : (s.atPorts n).pending = s.pending.tail := rfl
@[simp] theorem State.atPorts_listing (n : Nat) (s : State) : (s.atPorts n).listing = s.listing := rfl
@[simp] theorem State.atPorts_pastListings (n : Nat) (s : State) : (s.atPorts n).pastListings = s.pastListings := rfl
@[simp] theorem State.atPorts_recordsTaken (n : Nat) (s : State) : (s.atPorts n).recordsTaken = n := rfl
@[simp] theorem State.atPorts_draws (n : Nat) (s : State) : (s.atPorts n).draws = s.draws + 1 := rfl

@[simp] theorem isData_atPorts (n : Nat) (s : State) : isData (s.atPorts n) = isData s := rfl

/-- An accepted word at the ports, by the priority of R806. -/
theorem blockStep_word {w : Word} {s t : State} (h : blockStep false true w s = .next t) :
    s.resetDone = true ∧ s.ovf = false ∧ processWord w s = .next t := by
  unfold blockStep at h
  cases hr : s.resetDone <;> cases ho : s.ovf <;> simp_all [addressOverflow]

/-- A word that is processed: rendered as data, or run as the instruction it decodes to. -/
theorem processWord_cases {w : Word} {s t : State} (h : processWord w s = .next t) :
    (isData s = true ∧ t = afterData w s) ∨
    (isData s = false ∧ exec (decode s.params.rFunctExtra w) s = .next t) := by
  unfold processWord at h
  split at h
  · rename_i hd
    injection h with h
    exact .inl ⟨hd, by rw [← h, dataWord_eq]⟩
  · rename_i hd
    exact .inr ⟨by simpa using hd, h⟩

/-- A step that answers a next state was a reset step, a step that presented no word, or one that processed the word
it presented. -/
theorem step_cases {s t : State} (h : step s = .next t) :
    (presentsReset s = true ∧ presentedWord s = none ∧ t = resetBlock (s.tick s.pending.tail)) ∨
    (presentsReset s = false ∧ presentedWord s = none ∧ t = s.tick s.pending.tail) ∨
    (∃ w n, presentsReset s = false ∧ presentedWord s = some w ∧ s.resetDone = true ∧ s.ovf = false ∧
      (n = s.recordsTaken ∨ n = s.recordsTaken + 1) ∧ processWord w (s.atPorts n) = .next t) := by
  unfold step stepPending at h
  unfold presentsReset presentedWord
  split at h
  · rename_i hp
    injection h with h
    simp [hp, ← h]
  · rename_i e rest hp
    have word (w : Word) (n : Nat) (hn : n = s.recordsTaken ∨ n = s.recordsTaken + 1) (u : State)
        (hu : u = s.atPorts n) (hb : blockStep false true w u = .next t) :
        s.resetDone = true ∧ s.ovf = false ∧ (n = s.recordsTaken ∨ n = s.recordsTaken + 1) ∧
          processWord w (s.atPorts n) = .next t := by
      subst hu
      obtain ⟨hr, ho, hw⟩ := blockStep_word hb
      exact ⟨hr, ho, hn, hw⟩
    rw [hp]
    cases e with
    | ports rst v w =>
      simp only [presentStimulus] at h
      cases rst with
      | true =>
        injection h with h
        exact .inl ⟨rfl, rfl, h.symm⟩
      | false =>
        cases v with
        | false =>
          injection h with h
          exact .inr (.inl ⟨rfl, rfl, h.symm⟩)
        | true =>
          have hw := word w s.recordsTaken (.inl rfl) _ (by simp [State.atPorts, State.tick, hp]) h
          exact .inr (.inr ⟨w, _, rfl, rfl, hw⟩)
    | record txt =>
      simp only [presentStimulus, takeRecord] at h
      split at h
      · rename_i hb
        injection h with h
        exact .inr (.inl ⟨rfl, by simp [hb], by simp [← h]⟩)
      · rename_i hb
        split at h
        · cases h
        · rename_i w hw
          have hs := word w (s.recordsTaken + 1) (.inr rfl) _ (by simp [State.atPorts, State.tick, hp]) h
          exact .inr (.inr ⟨w, _, rfl, by simp [hb, hw], hs⟩)
    | bytes b0 b1 b2 b3 =>
      simp only [presentStimulus] at h
      have hw := word _ s.recordsTaken (.inl rfl) _ (by simp [State.atPorts, State.tick, hp]) h
      exact .inr (.inr ⟨_, _, rfl, rfl, hw⟩)
    | accessFailure which => cases h

end Sys2Proof.Machine
end

