-- ==== Sys2Proof/Tests/Slice0.lean ====
section
/-! SUPPORT. The model's own tests. Words and expected results are those of the spec's test vectors (95_test_vectors.md),
written out from the encodings of R302 to R304. A theorem `witness_X` meets the hypotheses of `Obligations.X`. -/

namespace Sys2Proof.Tests

open Sys2Proof.Machine

/-! ### WellFormed: an ill-formed term for each check -/

theorem test_wf_sll_zero : wellFormed .mips1 (.sll 0 0 0 0) = false := by decide
theorem test_wf_sll_rs : wellFormed .mips1 (.sll 1 0 0 0) = true := by decide
theorem test_wf_extra_none : wellFormed .none (.mult 1 2 3 0) = false := by decide
theorem test_wf_unknownR_key : wellFormed .mips1 (.unknownR 1 2 3 0 0x20#6) = false := by decide
theorem test_wf_unknownR_extra : wellFormed .none (.unknownR 1 2 3 0 0x18#6) = true := by decide
theorem test_wf_unknownRegimm_key : wellFormed .mips1 (.unknownRegimm 1 0x10#5 0) = false := by decide
theorem test_wf_unknownI_r : wellFormed .mips1 (.unknownI 0x00#6 1 2 0) = false := by decide
theorem test_wf_unknownI_regimm : wellFormed .mips1 (.unknownI 0x01#6 1 2 0) = false := by decide
theorem test_wf_unknownI_j : wellFormed .mips1 (.unknownI 0x03#6 1 2 0) = false := by decide
theorem test_wf_unknownI_key : wellFormed .mips1 (.unknownI 0x08#6 1 2 0) = false := by decide

/-! ### Decoding: one word for every constructor (families V-R, V-I, V-J) -/

theorem test_decode_nop : decode .mips1 0b00000000000000000000000000000000#32 = .nop := by decide
theorem test_decode_sll : decode .mips1 0b00000000000000100001100100000000#32 = .sll 0 2 3 4 := by decide
theorem test_decode_srl : decode .mips1 0b00000000000001010011011111000010#32 = .srl 0 5 6 31 := by decide
theorem test_decode_sra : decode .mips1 0b00000000000001110100000001000011#32 = .sra 0 7 8 1 := by decide
theorem test_decode_sllv : decode .mips1 0b00000001001010100101100000000100#32 = .sllv 9 10 11 0 := by decide
theorem test_decode_srlv : decode .mips1 0b00000000001000100001100000000110#32 = .srlv 1 2 3 0 := by decide
theorem test_decode_srav : decode .mips1 0b00000000100001010011000000000111#32 = .srav 4 5 6 0 := by decide
theorem test_decode_jr : decode .mips1 0b00000011111001010011100011001000#32 = .jr 31 5 7 3 := by decide
theorem test_decode_jalr : decode .mips1 0b00000000100000001111100000001001#32 = .jalr 4 0 31 0 := by decide
theorem test_decode_syscall : decode .mips1 0b00000000000000000000000100001100#32 = .syscall 0 0 0 4 := by decide
theorem test_decode_brk : decode .mips1 0b00000011111111111111111111001101#32 = .brk 31 31 31 31 := by decide
theorem test_decode_mfhi : decode .mips1 0b00000011111000000100000000010000#32 = .mfhi 31 0 8 0 := by decide
theorem test_decode_mthi : decode .mips1 0b00000001001000000000000000010001#32 = .mthi 9 0 0 0 := by decide
theorem test_decode_mflo : decode .mips1 0b00000000000000000101000000010010#32 = .mflo 0 0 10 0 := by decide
theorem test_decode_mtlo : decode .mips1 0b00000001011000000000000000010011#32 = .mtlo 11 0 0 0 := by decide
theorem test_decode_mult : decode .mips1 0b00000000001000100000000000011000#32 = .mult 1 2 0 0 := by decide
theorem test_decode_multu : decode .mips1 0b00000000011001000000000000011001#32 = .multu 3 4 0 0 := by decide
theorem test_decode_div : decode .mips1 0b00000000101001100000000000011010#32 = .div 5 6 0 0 := by decide
theorem test_decode_divu : decode .mips1 0b00000000111010000000000000011011#32 = .divu 7 8 0 0 := by decide
theorem test_decode_add : decode .mips1 0b00000000001000100001100000100000#32 = .add 1 2 3 0 := by decide
theorem test_decode_addu : decode .mips1 0b00000000100001010011000000100001#32 = .addu 4 5 6 0 := by decide
theorem test_decode_sub : decode .mips1 0b00000000111010000100100000100010#32 = .sub 7 8 9 0 := by decide
theorem test_decode_subu : decode .mips1 0b00000001010010110110000000100011#32 = .subu 10 11 12 0 := by decide
theorem test_decode_and : decode .mips1 0b00000001101011100111100000100100#32 = .and 13 14 15 0 := by decide
theorem test_decode_or : decode .mips1 0b00000010000100011001000000100101#32 = .or 16 17 18 0 := by decide
theorem test_decode_xor : decode .mips1 0b00000010011101001010100000100110#32 = .xor 19 20 21 0 := by decide
theorem test_decode_nor : decode .mips1 0b00000010110101111100000000100111#32 = .nor 22 23 24 0 := by decide
theorem test_decode_slt : decode .mips1 0b00000011001110101101100000101010#32 = .slt 25 26 27 0 := by decide
theorem test_decode_sltu : decode .mips1 0b00000011100111011111000000101011#32 = .sltu 28 29 30 0 := by decide
theorem test_decode_unknownR : decode .mips1 0b00000000001000100001100000000001#32 = .unknownR 1 2 3 0 1 := by decide
theorem test_decode_bltz : decode .mips1 0b00000100001000001111111111111111#32 = .bltz 1 0xFFFF := by decide
theorem test_decode_bgez : decode .mips1 0b00000100010000010000000000000011#32 = .bgez 2 3 := by decide
theorem test_decode_bltzal : decode .mips1 0b00000100011100001000000000000000#32 = .bltzal 3 0x8000 := by decide
theorem test_decode_bgezal : decode .mips1 0b00000100100100010111111111111111#32 = .bgezal 4 0x7FFF := by decide
theorem test_decode_unknownRegimm : decode .mips1 0b00000100101000100000000000000111#32 = .unknownRegimm 5 2 7 := by decide
theorem test_decode_beq : decode .mips1 0b00010000001000101111111111111110#32 = .beq 1 2 0xFFFE := by decide
theorem test_decode_bne : decode .mips1 0b00010100011000000000000000000101#32 = .bne 3 0 5 := by decide
theorem test_decode_blez : decode .mips1 0b00011000101000110000000000000100#32 = .blez 5 3 4 := by decide
theorem test_decode_bgtz : decode .mips1 0b00011100000111110000000000000001#32 = .bgtz 0 31 1 := by decide
theorem test_decode_addi : decode .mips1 0b00100000001000101111111111111111#32 = .addi 1 2 0xFFFF := by decide
theorem test_decode_addiu : decode .mips1 0b00100100000000110000000001100100#32 = .addiu 0 3 100 := by decide
theorem test_decode_slti : decode .mips1 0b00101000100001011111111111110110#32 = .slti 4 5 0xFFF6 := by decide
theorem test_decode_andi : decode .mips1 0b00110000110001110000000011111111#32 = .andi 6 7 0xFF := by decide
theorem test_decode_ori : decode .mips1 0b00110101000010011000000000000001#32 = .ori 8 9 0x8001 := by decide
theorem test_decode_xori : decode .mips1 0b00111001010010111111111111111111#32 = .xori 10 11 0xFFFF := by decide
theorem test_decode_lui : decode .mips1 0b00111100000000011000000000000000#32 = .lui 0 1 0x8000 := by decide
theorem test_decode_lb : decode .mips1 0b10000011101010001111111111111100#32 = .lb 29 8 0xFFFC := by decide
theorem test_decode_lh : decode .mips1 0b10000111101010010000000000000010#32 = .lh 29 9 2 := by decide
theorem test_decode_lw : decode .mips1 0b10001100000000110000000010101100#32 = .lw 0 3 172 := by decide
theorem test_decode_lbu : decode .mips1 0b10010000100001010000000000000000#32 = .lbu 4 5 0 := by decide
theorem test_decode_lhu : decode .mips1 0b10010100110001111000000000000000#32 = .lhu 6 7 0x8000 := by decide
theorem test_decode_sb : decode .mips1 0b10100001000010010000000000000001#32 = .sb 8 9 1 := by decide
theorem test_decode_sh : decode .mips1 0b10100101010010111111111111111110#32 = .sh 10 11 0xFFFE := by decide
theorem test_decode_sw : decode .mips1 0b10101111101111111111111111111000#32 = .sw 29 31 0xFFF8 := by decide
theorem test_decode_j : decode .mips1 0b00001000000000000000000001100100#32 = .j 100 := by decide
theorem test_decode_jal : decode .mips1 0b00001100000000000000000000000001#32 = .jal 1 := by decide
theorem test_decode_unknownI : decode .mips1 0b00101100001000101111111111111111#32 = .unknownI 0x0B 1 2 0xFFFF := by decide
theorem test_decode_none_mult : decode .none 0x00220018#32 = .unknownR 1 2 0 0 0x18#6 := by decide
theorem test_decode_conflict_c1 : decode .mips1 0x00000020#32 = .add 0 0 0 0 := by decide
theorem test_decode_regimm_low_bits : decode .mips1 0x0400000D#32 = .bltz 0 13 := by decide
theorem test_table_word : decodeTableWord 32 0x2022FFFF = some (.addi 1 2 0xFFFF) := by decide
theorem test_table_word_short : decodeTableWord 6 0xFF20 = some (.add 0 0 0 0) := by decide
theorem test_table_word_long : decodeTableWord 33 0 = none := by decide
theorem test_encode_sw : encode (.sw 29 31 0xFFF8) = 0xAFBFFFF8#32 := by decide
theorem test_encode_jal : encode (.jal 0x3FFFFFF) = 0x0FFFFFFF#32 := by decide

/-! ### Fields and assembled operands (V-FX, V-SX, V-JA) -/

theorem test_fields_55555555 :
    (opcodeOf 0x55555555#32, rsOf 0x55555555#32, rtOf 0x55555555#32, rdOf 0x55555555#32, shamtOf 0x55555555#32,
      functOf 0x55555555#32, imm16Of 0x55555555#32, target26Of 0x55555555#32) =
    (0x15#6, 10#5, 21#5, 10#5, 21#5, 0x15#6, 0x5555#16, 0x1555555#26) := by decide
theorem test_simm_8000 : simm 0x8000#16 = -32768 ∧ simm32 0x8000#16 = 0xFFFF8000#32 ∧ uimm 0x8000#16 = 32768 := by decide
theorem test_simm_7fff : simm 0x7FFF#16 = 32767 ∧ simm32 0x7FFF#16 = 0x00007FFF#32 := by decide
theorem test_jaddr_top : jaddr 0x3FFFFFF#26 = 268435452 := by decide

/-! ### Rendering (V-RN) -/

theorem test_line_nop : recordLine (.code 0#32 0#32 .r .nop .none []) =
    "000000 00000 00000 00000 00000 000000\t0\tNOP".toList := by decide
theorem test_line_lw : recordLine (.code 4#32 0x8C0300AC#32 .i .lw .rtMem [.reg 3, .mem 172 0]) =
    "100011 00000 00011 00000 00010 101100\t4\tLW\tR3, #172(R0)".toList := by decide
theorem test_line_data : recordLine (.data 40#32 0x80000000#32) =
    "10000000000000000000000000000000      \t40\t2147483648".toList := by decide

/-! ### One step (V-ST, V-FT, P1 to P5) -/

/-- A block that has been reset, with these parameters and these four state elements. -/
def block (base threshold addr : Word) (sentinel : Bool) (mode : SectionMode) (ovf : Bool)
    (pending : List Stimulus) : State where
  addr := addr
  sentinel := sentinel
  mode := mode
  ovf := ovf
  params := ⟨base, threshold, .mips1, .big⟩
  resetDone := true
  pending := pending
  listing := []
  pastListings := []
  recordsTaken := 0
  draws := 0

/-- The state a step answers, if it answers one. -/
def nextOf : Host.Outcome State Fault Refusal → Option State
  | .next t => some t
  | _ => none

/-- The fault a step answers, if it answers one. -/
def faultOf : Host.Outcome State Fault Refusal → Option Fault
  | .fault f => some f
  | _ => none

/-- The four state elements, and the lines of the listing. -/
structure Summary where
  addr : Word
  sentinel : Bool
  mode : SectionMode
  ovf : Bool
  lines : List Text
  deriving DecidableEq, Repr

/-- The summary of the state a step answers. -/
def summary (s : State) : Option Summary :=
  (nextOf (step s)).map fun t => ⟨t.addr, t.sentinel, t.mode, t.ovf, listingLines t⟩

theorem test_step_break : summary (block 0 8 0 false .code false [.ports false true 0x0000000D#32]) =
    some ⟨4#32, true, .code, false, ["000000 00000 00000 00000 00000 001101\t0\tBREAK".toList]⟩ := by decide
theorem test_step_below_threshold : summary (block 0 8 4 true .code false [.ports false true 0#32]) =
    some ⟨8#32, true, .code, false, ["000000 00000 00000 00000 00000 000000\t4\tNOP".toList]⟩ := by decide
theorem test_step_data_at_threshold : summary (block 0 8 8 true .code false [.ports false true 0#32]) =
    some ⟨12#32, true, .data, false, ["00000000000000000000000000000000      \t8\t0".toList]⟩ := by decide
theorem test_step_break_as_data : summary (block 0 32 40 true .data false [.ports false true 0x0000000D#32]) =
    some ⟨44#32, true, .data, false, ["00000000000000000000000000001101      \t40\t13".toList]⟩ := by decide
theorem test_step_regimm_not_break : summary (block 0 0 0 false .code false [.ports false true 0x0400000D#32]) =
    some ⟨4#32, false, .code, false, ["000001 00000 00000 00000 00000 001101\t0\tBLTZ\tR0, #13".toList]⟩ := by decide
theorem test_step_top : summary (block 0xFFFFFFF8#32 0xFFFFFFFF#32 0xFFFFFFFC#32 false .code false
      [.ports false true 0x0000000D#32]) =
    some ⟨0#32, true, .code, true,
      ["000000 00000 00000 00000 00000 001101\t4294967292\tBREAK".toList]⟩ := by decide
theorem test_step_overflow_faults : faultOf (step (block 0xFFFFFFF8#32 0xFFFFFFFF#32 0#32 true .code true
    [.ports false true 0x2022FFFF#32])) = some (.addressOverflow 0#32 true) := by decide
theorem test_step_idle : summary (block 0 8 4 false .code false [.ports false false 0x0000000D#32]) =
    some ⟨4#32, false, .code, false, []⟩ := by decide
theorem test_step_reset_drops_word : summary (block 100 120 112 true .data true [.ports true true 0x0000000D#32]) =
    some ⟨100#32, false, .code, false, []⟩ := by decide
theorem test_record_step : summary (block 0 8 0 false .code false
      [.record " 00001000000000000000000001100100\r".toList]) =
    some ⟨4#32, false, .code, false, ["000010 00000 00000 00000 00001 100100\t0\tJ\t#400".toList]⟩ := by decide
theorem test_record_blank : summary (block 0 8 4 false .code false [.record " \t".toList]) =
    some ⟨4#32, false, .code, false, []⟩ := by decide
theorem test_record_malformed : faultOf (step (block 0 8 4 false .code false
    [.record "0010000000100010111111111111111".toList])) =
    some (.malformedRecord 1 "0010000000100010111111111111111".toList) := by decide
theorem test_bytes_big : summary (block 0 8 0 false .code false [.bytes 0x08 0x00 0x00 0x64]) =
    some ⟨4#32, false, .code, false, ["000010 00000 00000 00000 00001 100100\t0\tJ\t#400".toList]⟩ := by decide
theorem test_access_failure : faultOf (step (block 0 8 0 false .code false [.accessFailure .destination])) =
    some (.inputAccess .destination) := by decide
theorem test_empty_run : listingLines State.reset = [] ∧ runEnded State.reset = true := by decide
theorem test_ports_addi :
    let p := outPorts (block 0 8 4 false .code false []) false true 0x2022FFFF#32
    (p.outValid, p.outKind, p.outAddr, p.outMnem, p.outForm, p.outNops, p.outOp0.reg, p.outOp1.reg, p.outOp2.val) =
      (true, false, 4#32, 33#6, 9#4, 3#2, 2#5, 1#5, 0xFFFFFFFF#32) := by decide
theorem test_fetch_word : ∃ t, step (State.reset.withFetchWord 32 0x2022FFFF) = .next t := ⟨_, rfl⟩

/-! ### Witnesses of the statements' hypotheses, clause by clause -/

section Witnesses

/-- A reset block at address 4 of a run from 0 with threshold 8, given these stimuli. -/
def at4 (pending : List Stimulus) : State := block 0 8 4 false .code false pending

theorem witness_FieldsAreTheirBitRanges : (at4 []).ovf = false := rfl
theorem witness_FieldViewsOverlap : (block 0 8 8 true .data false []).ovf = false := rfl
theorem witness_SignedImmediateFeedsOperands :
    formatOf 0x8FFF8000#32 = .i ∧ .mem (-32768) 31 ∈ (decodeFields .mips1 0x8FFF8000#32).operands ∧
    formatOf 0x1000FFFF#32 = .i ∧ .imm (-1) ∈ (decodeFields .mips1 0x1000FFFF#32).operands ∧
    formatOf 0x3C018000#32 = .i ∧ .uimm 32768 ∈ (decodeFields .mips1 0x3C018000#32).operands := by decide
theorem witness_UnsignedImmediateOnlyInLui : formatOf 0x3C01FFFF#32 = .i ∧ mnemonicOf .none 0x3C01FFFF#32 = .lui := by
  decide
theorem witness_JumpAddressIsTargetTimesFour : (at4 []).ovf = false := rfl
theorem witness_OpcodeSelectsFormat :
    opcodeOf 0x03FFFFFF#32 = 0x00#6 ∧ opcodeOf 0x08000000#32 = 0x02#6 ∧ opcodeOf 0x0FFFFFFF#32 = 0x03#6 ∧
    opcodeOf 0x04000000#32 ≠ 0x00#6 ∧ opcodeOf 0x04000000#32 ≠ 0x02#6 ∧ opcodeOf 0x04000000#32 ≠ 0x03#6 := by decide
theorem witness_NopIsTheZeroWord :
    (opcodeOf 0x00200000#32 = 0x00#6 ∧ functOf 0x00200000#32 = 0x00#6 ∧ (0x00200000#32 : Word) ≠ 0) ∧
    (opcodeOf 0x0000003F#32 = 0x00#6 ∧ functOf 0x0000003F#32 ≠ 0x00#6) ∧ opcodeOf 0x08000000#32 ≠ 0x00#6 := by decide
theorem witness_UnknownSpace : mnemonicOf .mips1 0xFFFFFFFF#32 = .unknown := by decide
theorem witness_ShiftAmountInstructions :
    (opcodeOf 0x03FFFFC0#32 = 0x00#6 ∧ functOf 0x03FFFFC0#32 = 0x00#6 ∧ (0x03FFFFC0#32 : Word) ≠ 0) ∧
    (opcodeOf 0x03FFFFC2#32 = 0x00#6 ∧ functOf 0x03FFFFC2#32 = 0x02#6) ∧
    (opcodeOf 0x03FFFFC3#32 = 0x00#6 ∧ functOf 0x03FFFFC3#32 = 0x03#6) := by decide
theorem witness_ShiftVariableInstructions :
    (opcodeOf 0x03FFFFC4#32 = 0x00#6 ∧ functOf 0x03FFFFC4#32 = 0x04#6) ∧
    (opcodeOf 0x03FFFFC6#32 = 0x00#6 ∧ functOf 0x03FFFFC6#32 = 0x06#6) ∧
    (opcodeOf 0x03FFFFC7#32 = 0x00#6 ∧ functOf 0x03FFFFC7#32 = 0x07#6) := by decide
theorem witness_RegisterJumps :
    (opcodeOf 0x03FFFFC8#32 = 0x00#6 ∧ functOf 0x03FFFFC8#32 = 0x08#6) ∧
    (opcodeOf 0x03FFFFC9#32 = 0x00#6 ∧ functOf 0x03FFFFC9#32 = 0x09#6) := by decide
theorem witness_SyscallIsOnlyNamed : opcodeOf 0x03FFFFCC#32 = 0x00#6 ∧ functOf 0x03FFFFCC#32 = 0x0C#6 := by decide
theorem witness_BreakSetsTheSentinel :
    (opcodeOf 0x03FFFFCD#32 = 0x00#6 ∧ functOf 0x03FFFFCD#32 = 0x0D#6) ∧ (block 0 8 8 true .data false []).mode = .data ∧
    (block 0 8 0 false .code false []).mode = .code ∧
    ∃ t, exec (decode .mips1 0x0000000D#32) (block 0 8 0 false .code false []) = .next t ∧
      t.addr.toNat < t.params.dataThreshold.toNat := by
  refine ⟨by decide, by decide, by decide, _, rfl, by decide⟩
theorem witness_HiLoMoves :
    (opcodeOf 0x03FFFFD0#32 = 0x00#6 ∧ functOf 0x03FFFFD0#32 = 0x10#6) ∧
    (opcodeOf 0x03FFFFD1#32 = 0x00#6 ∧ functOf 0x03FFFFD1#32 = 0x11#6) ∧
    (opcodeOf 0x03FFFFD2#32 = 0x00#6 ∧ functOf 0x03FFFFD2#32 = 0x12#6) ∧
    (opcodeOf 0x03FFFFD3#32 = 0x00#6 ∧ functOf 0x03FFFFD3#32 = 0x13#6) := by decide
theorem witness_ThreeRegisterInstructions :
    ∀ fn ∈ [0x20#6, 0x22#6, 0x24#6, 0x25#6, 0x26#6, 0x27#6, 0x2A#6],
      opcodeOf (registerWord 31 31 31 31 fn) = 0x00#6 ∧ functOf (registerWord 31 31 31 31 fn) = fn := by decide
theorem witness_UnknownFunctionCodes :
    (opcodeOf 0x03FFFFFF#32 = 0x00#6 ∧ (functOf 0x03FFFFFF#32).toNat = 0x3F) ∧
    (opcodeOf 0x00000018#32 = 0x00#6 ∧ (functOf 0x00000018#32).toNat = 0x18 ∧ RFunctExtra.none ≠ .mips1) := by decide
theorem witness_ExtraFunctionCodes :
    ∀ fn ∈ [0x18#6, 0x19#6, 0x1A#6, 0x1B#6, 0x21#6, 0x23#6, 0x2B#6],
      opcodeOf (registerWord 31 31 31 31 fn) = 0x00#6 ∧ functOf (registerWord 31 31 31 31 fn) = fn := by decide
theorem witness_TwoRegisterBranches : opcodeOf 0x13FFFFFF#32 = 0x04#6 ∧ opcodeOf 0x17FFFFFF#32 = 0x05#6 := by decide
theorem witness_OneRegisterBranches : opcodeOf 0x1BFF8000#32 = 0x06#6 ∧ opcodeOf 0x1FFF7FFF#32 = 0x07#6 := by decide
theorem witness_RegimmInstructions :
    opcodeOf 0x07E0FFFF#32 = 0x01#6 ∧ rtOf 0x07E0FFFF#32 = 0x00#5 ∧ rtOf 0x07E1FFFF#32 = 0x01#5 ∧
    rtOf 0x07F0FFFF#32 = 0x10#5 ∧ rtOf 0x07F1FFFF#32 = 0x11#5 ∧ opcodeOf 0x07F28000#32 = 0x01#6 ∧
    rtOf 0x07F28000#32 = 0x12#5 := by decide
theorem witness_ImmediateArithmetic :
    ∀ op ∈ [0x08#6, 0x09#6, 0x0A#6, 0x0C#6, 0x0D#6, 0x0E#6], opcodeOf (immediateWord op 31 31 0x8000#16) = op := by decide
theorem witness_LuiPrintsUnsigned : opcodeOf 0x3FFF8000#32 = 0x0F#6 := by decide
theorem witness_LoadsAndStores :
    ∀ op ∈ [0x20#6, 0x21#6, 0x23#6, 0x24#6, 0x25#6, 0x28#6, 0x29#6, 0x2B#6],
      opcodeOf (immediateWord op 31 31 0x8000#16) = op := by decide
theorem witness_UnknownOpcodes : (opcodeOf 0xFFFFFFFF#32).toNat = 0x3F ∧ (opcodeOf 0x2C000000#32).toNat = 0x0B := by decide
theorem witness_JumpInstructions : opcodeOf 0x0BFFFFFF#32 = 0x02#6 ∧ opcodeOf 0x0FFFFFFF#32 = 0x03#6 := by decide
theorem witness_DecodeOfEncodeIsIdentity :
    wellFormed .none (.unknownR 31 31 31 31 0x2B#6) = true ∧ wellFormed .mips1 (.sltu 31 31 31 31) = true ∧
    wellFormed .mips1 (.unknownI 0x3F#6 31 31 0xFFFF#16) = true := by decide
theorem witness_ExtraParameterOnlyRenames :
    (decodeFields .none 0x03FFFFD8#32).mnem ≠ (decodeFields .mips1 0x03FFFFD8#32).mnem := by decide
theorem witness_ResetStepWritesTheResetState :
    (at4 [.ports true true 0xFFFFFFFF#32]).pending = [.ports true true 0xFFFFFFFF#32] := rfl
theorem witness_ResetStateIsTheResetValues :
    ∃ t, step (at4 [.ports true false 0#32]) = .next t ∧ presentsReset (at4 [.ports true false 0#32]) = true :=
  ⟨_, rfl, rfl⟩
theorem witness_IdleStepChangesNothing :
    (at4 [.ports false false 0xFFFFFFFF#32]).pending = [.ports false false 0xFFFFFFFF#32] ∧ (at4 []).pending = [] :=
  ⟨rfl, rfl⟩
theorem witness_WordBeforeResetIsRefused :
    presentedWord (at4 [.ports false true 0#32]) = some 0#32 ∧
    ({ at4 [.ports false true 0#32] with resetDone := false } : State).resetDone = false := by decide
theorem witness_AddressOverflowFaults :
    (presentedWord (block 0 8 0 true .code true [.ports false true 0#32]) = some 0#32 ∧
      (block 0 8 0 true .code true [.ports false true 0#32]).ovf = true) ∧
    (presentedWord (block 0 8 0xFFFFFFFC#32 true .code false [.ports false true 0#32]) = some 0#32 ∧
      (block 0 8 0xFFFFFFFC#32 true .code false [.ports false true 0#32]).ovf = false) ∧
    (∃ t, step (block 0 8 0 true .code true []) = .next t ∧
      presentsReset (block 0 8 0 true .code true []) = false) := by
  refine ⟨by decide, by decide, _, rfl, by decide⟩
theorem witness_StepPriority :
    ((at4 [.ports true true 0#32]).pending = .ports true true 0#32 :: [] ∧ (at4 []).resetDone = true) ∧
    (block 0 8 8 true .code false []).params.dataThreshold.toNat ≤ (block 0 8 8 true .code false []).addr.toNat ∧
    (block 0 8 7 true .code false []).addr.toNat < (block 0 8 7 true .code false []).params.dataThreshold.toNat := by
  decide
theorem witness_StepRunsTheDecodedInstruction :
    presentedWord (block 0 8 7 true .code false [.ports false true 0x0000000D#32]) = some 0x0000000D#32 ∧
    decode .mips1 0x0000000D#32 = .brk 0 0 0 0 ∧
    (block 0 8 7 true .code false []).addr.toNat < (block 0 8 7 true .code false []).params.dataThreshold.toNat := by
  decide
theorem witness_FetchedWordRunsNext :
    decodeTableWord 32 0xFFFFFFFF = some (.unknownI 0x3F#6 31 31 0xFFFF#16) ∧
    (block 0 8 8 true .data true []).params.rFunctExtra = .mips1 ∧
    (State.reset.resetDone = true ∧ State.reset.ovf = false ∧ State.reset.mode = .code ∧
      State.reset.sentinel = false) := by decide
theorem witness_DataWordsAreNotDecoded :
    presentedWord (block 0 8 8 true .code false [.ports false true 0x0000000D#32]) = some 0x0000000D#32 ∧
    (block 0 8 8 true .code false []).params.dataThreshold.toNat ≤ (block 0 8 8 true .code false []).addr.toNat ∧
    (block 0 8 0 true .data false []).mode = .data := by decide

/-- A word step, an idle step and a reset step all answer a next state. -/
theorem steps_answer :
    (∃ t, step (at4 [.ports false true 0x0000000D#32]) = .next t ∧
      presentedWord (at4 [.ports false true 0x0000000D#32]) = some 0x0000000D#32) ∧
    (∃ t, step (at4 [.ports false false 0#32]) = .next t ∧ presentsReset (at4 [.ports false false 0#32]) = false ∧
      presentedWord (at4 [.ports false false 0#32]) = none) ∧
    (∃ t, step (at4 [.ports true false 0#32]) = .next t ∧ presentsReset (at4 [.ports true false 0#32]) = true) :=
  ⟨⟨_, rfl, rfl⟩, ⟨_, rfl, rfl, rfl⟩, ⟨_, rfl, rfl⟩⟩

theorem witness_AddressCounterWriters : ∃ t, step (at4 [.ports false true 0x0000000D#32]) = .next t :=
  steps_answer.1.imp fun _ h => h.1
theorem witness_SentinelWriters : ∃ t, step (at4 [.ports true false 0#32]) = .next t :=
  steps_answer.2.2.imp fun _ h => h.1
theorem witness_ModeWriters :
    (∃ t, step (block 0 8 8 true .data false [.ports false false 0#32]) = .next t) ∧
    (block 0 8 8 true .data false [.ports false false 0#32]).mode = .data := ⟨⟨_, rfl⟩, rfl⟩
theorem witness_OverflowFlagWriters :
    (∃ t, step (block 0 8 0xFFFFFFFC#32 false .code false [.ports false true 0#32]) = .next t) ∧
    (∃ t, step (block 0 8 0 false .code true [.ports false false 0#32]) = .next t) ∧
    (presentedWord (block 0 8 0 false .code true [.ports false true 0#32]) = some 0#32 ∧
      (block 0 8 0 false .code true []).ovf = true) := ⟨⟨_, rfl⟩, ⟨_, rfl⟩, rfl, rfl⟩
theorem witness_ParametersAreFixed : ∃ t, step (at4 [.ports true false 0#32]) = .next t :=
  steps_answer.2.2.imp fun _ h => h.1
theorem witness_OneRecordPerWord : ∃ t, step (at4 [.ports false true 0x0000000D#32]) = .next t :=
  steps_answer.1.imp fun _ h => h.1
theorem witness_HostInputBecomesWords :
    (trimRecord " \t".toList = [] ∧ trimRecord "01".toList ≠ [] ∧ parseRecord (trimRecord "01".toList) = none ∧
      trimRecord (' ' :: rawBits 0xFFFFFFFF#32) = rawBits 0xFFFFFFFF#32) ∧
    (at4 [.bytes 1 2 3 4]).params.hostByteOrder = .big ∧
    ({ at4 [] with params := ⟨0, 8, .mips1, .little⟩ } : State).params.hostByteOrder = .little := by decide

/-- A run over these words with these parameters: the state it leaves. -/
def afterRun (p : Params) (ws : List Word) (addr : Word) (sentinel : Bool) (mode : SectionMode)
    (pending : List Stimulus) : State :=
  { block p.codeBase p.dataThreshold addr sentinel mode false pending with
    params := p, listing := splitListing p ws }

/-- The invariant of a block that has just been reset, whatever is still to present. -/
theorem inv_fresh (pending : List Stimulus) : Inv (block 0 8 0 false .code false pending) := by
  refine ⟨fun _ => ?_, by simp [block]⟩
  constructor <;> simp [block, splitListing, wordsOf, firstBreak]

/-- The invariant after BREAK at address 0 with the threshold at 4. -/
theorem inv_afterBreak (pending : List Stimulus) :
    Inv (afterRun ⟨0, 4, .mips1, .big⟩ [0x0000000D#32] 4 true .code pending) := by
  refine ⟨fun _ => ?_, by simp [afterRun, block]⟩
  constructor
  · rfl
  · rfl
  · show (0 + 4 * 1 : Nat) < _; decide
  · show false = true ↔ 2 ^ 32 ≤ (0 + 4 * 1 : Nat); decide
  · exact ⟨fun _ => rfl, fun _ => rfl⟩
  · show SectionMode.code = .data ↔ ∃ r ∈ splitListing ⟨0, 4, .mips1, .big⟩ [0x0000000D#32], recordIsData r = true
    decide

theorem witness_StepKeepsTheListingInvariant :
    ∃ s t, Inv s ∧ step s = .next t ∧ presentedWord s = some 0x0000000D#32 :=
  ⟨_, _, inv_fresh [.ports false true 0x0000000D#32], rfl, rfl⟩
theorem witness_TwoConditionGating :
    (∃ s t, Inv s ∧ step s = .next t ∧ presentedWord s = some 0#32 ∧
      (firstBreak s.params.rFunctExtra (wordsOf s.listing)).isSome = true ∧
      s.params.dataThreshold.toNat ≤ s.addr.toNat) ∧
    (∃ s t, Inv s ∧ step s = .next t ∧ presentedWord s = some 0#32 ∧
      (firstBreak s.params.rFunctExtra (wordsOf s.listing)).isSome = false) :=
  ⟨⟨_, _, inv_afterBreak [.ports false true 0#32], rfl, rfl, rfl, by decide⟩,
    ⟨_, _, inv_fresh [.ports false true 0#32], rfl, rfl, rfl⟩⟩
theorem witness_RunListsTheClosedForm :
    (at4 [.ports true false 0#32, .ports false true 0x0000000D#32]).pending =
      .ports true false 0#32 :: (presentAll [0x0000000D#32] ++ []) ∧
    (at4 []).params.codeBase.toNat + 4 * [0x0000000D#32].length < 2 ^ 32 + 4 := by decide
theorem witness_SameStreamSameListing :
    (at4 []).params = (block 0 8 64 true .data true []).params ∧
    (at4 [.ports true false 0#32, .ports false true 0x0000000D#32]).pending =
      .ports true false 0#32 :: ([.ports false true 0x0000000D#32] ++ []) ∧
    (block 0 8 64 true .data true [.ports true false 0#32, .ports false true 0x0000000D#32]).pending =
      .ports true false 0#32 :: ([.ports false true 0x0000000D#32] ++ []) := by decide
theorem witness_PortsShowTheRecord :
    (∃ t, step (block 0 8 8 true .code false [.ports false true 0x0000000D#32]) = .next t) ∧
    (∃ t, step (at4 [.ports false true 0x8FFF8000#32]) = .next t) := ⟨⟨_, rfl⟩, ⟨_, rfl⟩⟩

theorem witness_MnemonicIds : (at4 []).ovf = false ∧ isData (at4 []) = false := ⟨rfl, by decide⟩

end Witnesses

end Sys2Proof.Tests
end

/-! PROOF. The two statements of 00_scope.md: the fields of a word as its bit ranges (R8, R300), and the decimal
spelling of numbers (R9, D14). -/

namespace Sys2Proof.Machine

/-- The ports of R112 that every processed word drives, whatever it decodes to: its kind, its address and itself. -/
def processedPorts (s : State) (w : Word) : OutPorts :=
  { idlePorts s false true with outKind := isData s, outAddr := s.addr, outWord := w }

theorem idlePorts_outValid {s : State} (hovf : s.ovf = false) : (idlePorts s false true).outValid = true := by
  simp [idlePorts, hovf]

/-- The ports of a data word: the raw fields and no decoded record (R112, R301). -/
theorem outPorts_of_isData {s : State} (w : Word) (hovf : s.ovf = false) (hdata : isData s = true) :
    outPorts s false true w = (processedPorts s w).withFields w := by
  rw [outPorts, if_pos (idlePorts_outValid hovf), if_pos hdata]
  rfl

/-- The ports of a code word: the raw fields and the decoded record (R112, R301). -/
theorem outPorts_of_not_isData {s : State} (w : Word) (hovf : s.ovf = false) (hcode : ¬ isData s = true) :
    outPorts s false true w =
      ((processedPorts s w).withFields w).withDecoded s.draws (decodeFields s.params.rFunctExtra w) := by
  rw [outPorts, if_pos (idlePorts_outValid hovf), if_neg hcode]
  rfl

/-- R301: every processed word, code or data, has its fields on the ports, whatever stands on the others. -/
theorem outPorts_eq_withFields (s : State) (w : Word) (hovf : s.ovf = false) :
    ∃ p : OutPorts, outPorts s false true w = p.withFields w := by
  by_cases hdata : isData s = true
  · exact ⟨_, outPorts_of_isData w hovf hdata⟩
  · exact ⟨(processedPorts s w).withDecoded s.draws (decodeFields s.params.rFunctExtra w),
      outPorts_of_not_isData w hovf hdata⟩

/-- The model's value of a spelling is the library's, in base ten. -/
theorem decimalValue_eq_ofDigitChars (t : Text) : decimalValue t = Nat.ofDigitChars 10 t 0 := rfl

/-- A spelling reads back as its number (R9, D14). -/
@[simp] theorem decimalValue_decNat (n : Nat) : decimalValue (decNat n) = n := by
  rw [decimalValue_eq_ofDigitChars, decNat, Nat.ofDigitChars_ten_toDigits]

@[simp] theorem decNat_ne_nil (n : Nat) : decNat n ≠ [] := Nat.toDigits_ne_nil

theorem decNat_all_isDigit (n : Nat) : (decNat n).all Char.isDigit = true :=
  List.all_eq_true.mpr fun _ hc => Nat.isDigit_of_mem_toDigits (by decide) (by decide) hc

/-- A number of one digit is spelled as that digit. -/
theorem decNat_of_lt_ten {n : Nat} (h : n < 10) : decNat n = [n.digitChar] := Nat.toDigits_of_lt_base h

/-- A longer number is spelled as its quotient by ten, then its last digit. -/
theorem decNat_of_ten_le {n : Nat} (h : 10 ≤ n) : decNat n = decNat (n / 10) ++ [(n % 10).digitChar] :=
  Nat.toDigits_of_base_le (by decide) h

/-- Only 0 is spelled with a leading zero (D14): the leading digit of `n` is that of `n / 10`, down to one digit. -/
theorem decNat_head?_ne_zero {n : Nat} (hn : n ≠ 0) : (decNat n).head? ≠ some '0' := by
  induction n using Nat.strongRecOn with
  | ind n ih =>
    rcases Nat.lt_or_ge n 10 with h | h
    · rw [decNat_of_lt_ten h]
      simpa using hn
    · rw [decNat_of_ten_le h, List.head?_append_of_ne_nil _ (decNat_ne_nil _)]
      exact ih (n / 10) (by omega) (by omega)

@[simp] theorem dec_natCast (n : Nat) : dec (n : Int) = decNat n := rfl

/-- A negative integer is spelled as `-` and its magnitude (R660). -/
theorem dec_neg_succ (n : Nat) : dec (-((n : Int) + 1)) = '-' :: decNat (n + 1) := by
  rw [← Int.negSucc_eq, dec]

/-- Settles O1: the ports carry the fields of every processed word, and each field is a quotient reduced at its width;
only the opcode, at the top of the word, needs no reduction. -/
theorem fieldsAreTheirBitRanges : Obligations.FieldsAreTheirBitRanges := by
  intro s w hovf
  obtain ⟨p, hp⟩ := outPorts_eq_withFields s w hovf
  have hopcode : w.toNat / 2 ^ 26 < 2 ^ 6 := by have := w.isLt; omega
  rw [hp]
  exact ⟨⟨rfl, rfl, rfl, rfl, rfl, rfl, rfl, rfl⟩, by rw [opcodeOf_toNat, Nat.mod_eq_of_lt hopcode], rsOf_toNat w,
    rtOf_toNat w, rdOf_toNat w, shamtOf_toNat w, functOf_toNat w, imm16Of_toNat w, target26Of_toNat w⟩

/-- Settles O58: a spelling reads back as its number and, by induction on the number's digits, begins with no zero. -/
theorem decimalSpelling : Obligations.DecimalSpelling :=
  ⟨fun n => ⟨decimalValue_decNat n, decNat_all_isDigit n, decNat_ne_nil n, decNat_head?_ne_zero⟩,
    fun n => ⟨dec_natCast n, dec_neg_succ n⟩⟩

end Sys2Proof.Machine

/-! PROOF. The statements of 10_state.md: who writes each state element (R101 to R104, R106), the reset step (R120) and
the mnemonic ids (R113). What a step does is said once, by what the next stimulus is: a reset, no word, or a word. -/

namespace Sys2Proof.Machine

/-! ### The state after a word, element by element -/

@[simp] theorem afterCode_addr (w : Word) (d : Decoded) (s : State) : (afterCode w d s).addr = s.addr + 4#32 := rfl
@[simp] theorem afterCode_mode (w : Word) (d : Decoded) (s : State) : (afterCode w d s).mode = s.mode := rfl
@[simp] theorem afterCode_params (w : Word) (d : Decoded) (s : State) : (afterCode w d s).params = s.params := rfl
@[simp] theorem afterCode_sentinel (w : Word) (d : Decoded) (s : State) :
    (afterCode w d s).sentinel = sentinelAfter d.mnem s.sentinel := by
  by_cases hm : d.mnem = .brk <;> simp [afterCode, sentinelAfter, hm]
@[simp] theorem afterCode_ovf (w : Word) (d : Decoded) (s : State) :
    (afterCode w d s).ovf = (s.ovf || passesTop s.addr) := by
  simp [afterCode, passesTop, Bool.or_comm]

@[simp] theorem afterData_addr (w : Word) (s : State) : (afterData w s).addr = s.addr + 4#32 := rfl
@[simp] theorem afterData_sentinel (w : Word) (s : State) : (afterData w s).sentinel = s.sentinel := rfl
@[simp] theorem afterData_mode (w : Word) (s : State) : (afterData w s).mode = .data := rfl
@[simp] theorem afterData_params (w : Word) (s : State) : (afterData w s).params = s.params := rfl
@[simp] theorem afterData_ovf (w : Word) (s : State) : (afterData w s).ovf = (s.ovf || passesTop s.addr) := by
  simp [afterData, passesTop, Bool.or_comm]

@[simp] theorem stimulusTaken_addr (s : State) : (stimulusTaken s).addr = s.addr := rfl
@[simp] theorem stimulusTaken_sentinel (s : State) : (stimulusTaken s).sentinel = s.sentinel := rfl
@[simp] theorem stimulusTaken_mode (s : State) : (stimulusTaken s).mode = s.mode := rfl
@[simp] theorem stimulusTaken_ovf (s : State) : (stimulusTaken s).ovf = s.ovf := rfl
@[simp] theorem stimulusTaken_params (s : State) : (stimulusTaken s).params = s.params := rfl
@[simp] theorem stimulusTaken_resetDone (s : State) : (stimulusTaken s).resetDone = s.resetDone := rfl
@[simp] theorem isData_stimulusTaken (s : State) : isData (stimulusTaken s) = isData s := rfl

theorem sentinelAfter_eq_true (m : Mnemonic) (b : Bool) : sentinelAfter m b = true ↔ b = true ∨ m = .brk := by
  simp [sentinelAfter]

/-! ### BREAK, the one instruction that sets the sentinel -/

/-- Whether an instruction is BREAK (R411). -/
def isBreak : Instr → Bool
  | .brk _ _ _ _ => true
  | _ => false

/-- Every instruction is one code branch over its own word, and its record is named BREAK only if it is BREAK. -/
theorem exec_eq_afterCode (i : Instr) :
    ∃ d : Decoded, (d.mnem = .brk ↔ isBreak i = true) ∧ ∀ s, exec i s = .next (afterCode (encode i) d s) := by
  cases i <;> exact ⟨⟨_, _, _, _⟩, by simp [isBreak], fun _ => congrArg _ (codeWord_eq ..)⟩

theorem isBreak_registerInstr (m : Mnemonic) (rs rt rd shamt : RegIndex) (funct : BitVec 6) :
    isBreak (registerInstr m rs rt rd shamt funct) = true ↔ m = .brk := by
  cases m <;> simp [registerInstr, isBreak]

theorem isBreak_regimmInstr (m : Mnemonic) (rs rt : RegIndex) (imm : BitVec 16) :
    isBreak (regimmInstr m rs rt imm) = false := by
  cases m <;> rfl

theorem isBreak_immediateInstr (m : Mnemonic) (opcode : BitVec 6) (rs rt : RegIndex) (imm : BitVec 16) :
    isBreak (immediateInstr m opcode rs rt imm) = false := by
  cases m <;> rfl

theorem isBreak_jumpInstr (m : Mnemonic) (target : BitVec 26) : isBreak (jumpInstr m target) = false := by
  cases m <;> rfl

theorem lookupKey_rfunctTable_eq_brk (x : RFunctExtra) (k : BitVec 6) :
    lookupKey (rfunctTable x) k = .brk ↔ k = 0x0D#6 := by
  cases x <;> revert k <;> decide

/-- The word's `funct` alone makes a register-format word BREAK: the NOP override asks for another one. -/
theorem mnemonicOf_eq_brk {x : RFunctExtra} {w : Word} (hr : formatOf w = .r) :
    mnemonicOf x w = .brk ↔ functOf w = 0x0D#6 := by
  simp only [mnemonicOf, hr]
  split
  · rename_i hnop
    have hfunct : functOf w = 0#6 := by simp_all [nopOverride]
    simp [hfunct]
  · exact lookupKey_rfunctTable_eq_brk x _

/-- R411: the words that decode to BREAK. -/
theorem isBreak_decode (x : RFunctExtra) (w : Word) :
    isBreak (decode x w) = true ↔ opcodeOf w = 0x00#6 ∧ functOf w = 0x0D#6 := by
  rw [← formatOfOpcode_eq_r, ← formatOf]
  unfold decode
  cases hf : formatOf w with
  | r => simp [isBreak_registerInstr, mnemonicOf_eq_brk hf]
  | j => simp [isBreak_jumpInstr]
  | i =>
    simp only [reduceCtorEq, false_and, iff_false, Bool.not_eq_true]
    split
    · exact isBreak_regimmInstr ..
    · exact isBreak_immediateInstr ..

/-! ### What a step does, by what it presents -/

/-- R202, R910: a word the host presents, from text, bytes or the ports, is a word at the block's ports. -/
theorem step_eq_blockStep {s : State} {w : Word} (hw : presentedWord s = some w) :
    step s = blockStep false true w (stimulusTaken s) := by
  unfold presentedWord at hw
  split at hw
  · rename_i hp
    cases hw
    simp [step, stepPending, hp, presentStimulus, stimulusTaken, State.tick]
  · rename_i hp
    split at hw
    · cases hw
    · rename_i hblank
      simp [step, stepPending, hp, presentStimulus, takeRecord, hblank, hw, stimulusTaken, State.tick]
  · rename_i hp
    cases hw
    simp [step, stepPending, hp, presentStimulus, stimulusTaken, State.tick]
  · cases hw

/-- R120: a reset step. -/
theorem step_reset {s t : State} (h : step s = .next t) (hreset : presentsReset s = true) :
    t = resetBlock (s.tick s.pending.tail) := by
  obtain ⟨_, _, rfl⟩ | ⟨hr, _⟩ | ⟨_, _, hr, _⟩ := step_cases h
  · rfl
  all_goals simp [hr] at hreset

/-- D17: a step that is no reset and presents no word. -/
theorem step_idle {s t : State} (h : step s = .next t) (hreset : presentsReset s = false)
    (hword : presentedWord s = none) : t = s.tick s.pending.tail := by
  obtain ⟨hr, _⟩ | ⟨_, _, rfl⟩ | ⟨_, _, _, hw, _⟩ := step_cases h
  · simp [hr] at hreset
  · rfl
  · simp [hw] at hword

/-- R650: a word that is processed had `ovf` clear, and goes through the data branch, or through the code branch with
a record that is named BREAK exactly when the word is one. -/
theorem step_word {s t : State} {w : Word} (h : step s = .next t) (hword : presentedWord s = some w) :
    s.ovf = false ∧
    ((isData s = true ∧ t = afterData w (stimulusTaken s)) ∨
      (isData s = false ∧ ∃ d, (d.mnem = .brk ↔ opcodeOf w = 0x00#6 ∧ functOf w = 0x0D#6) ∧
        t = afterCode (encode (decode s.params.rFunctExtra w)) d (stimulusTaken s))) := by
  rw [step_eq_blockStep hword] at h
  obtain ⟨_, hovf, hprocess⟩ := blockStep_word h
  refine ⟨hovf, (processWord_cases hprocess).imp id fun ⟨hcode, hexec⟩ => ⟨hcode, ?_⟩⟩
  obtain ⟨d, hbreak, hd⟩ := exec_eq_afterCode (decode s.params.rFunctExtra w)
  rw [stimulusTaken_params, hd] at hexec
  injection hexec with hexec
  exact ⟨d, hbreak.trans (isBreak_decode ..), hexec.symm⟩

/-- R802: a word presented to a reset block whose counter has passed its top faults. -/
theorem step_overflow {s : State} {w : Word} (hword : presentedWord s = some w) (hdone : s.resetDone = true)
    (hovf : s.ovf = true) : step s = .fault (.addressOverflow s.addr true) := by
  rw [step_eq_blockStep hword]
  simp [blockStep, addressOverflow, hdone, hovf]

/-- R101, R104: in either section a word moves the address by 4 and sets `ovf` exactly at the top. -/
theorem step_word_addr_ovf {s t : State} {w : Word} (h : step s = .next t) (hword : presentedWord s = some w) :
    t.addr = s.addr + 4#32 ∧ t.ovf = passesTop s.addr := by
  obtain ⟨hovf, ⟨_, rfl⟩ | ⟨_, _, _, rfl⟩⟩ := step_word h hword <;> simp [hovf]

/-- A step that is no reset presents a word or is an idle one. -/
theorem presents_word_or_idle {s t : State} (h : step s = .next t) (hreset : presentsReset s = false) :
    (∃ w, presentedWord s = some w) ∨ t = s.tick s.pending.tail := by
  cases hword : presentedWord s with
  | some w => exact .inl ⟨w, rfl⟩
  | none => exact .inr (step_idle h hreset hword)

/-! ### The mnemonics a word can have -/

/-- A property of every entry of a table, and of UNKNOWN, is one of whatever the table's lookup answers (R10). -/
theorem lookupKey_induction {n : Nat} {P : Mnemonic → Prop} {table : List (BitVec n × Mnemonic)} (k : BitVec n)
    (unknown : P .unknown) (entries : ∀ row ∈ table, P row.2) : P (lookupKey table k) := by
  induction table with
  | nil => exact unknown
  | cons row rest ih =>
    obtain ⟨hrow, hrest⟩ := List.forall_mem_cons.mp entries
    unfold lookupKey
    split
    · exact hrow
    · exact ih hrest

/-- A property of NOP, UNKNOWN and every entry of the four tables is one of every word's mnemonic (R350). -/
theorem mnemonicOf_induction {P : Mnemonic → Prop} (x : RFunctExtra) (w : Word) (nop : P .nop) (unknown : P .unknown)
    (rfunct : ∀ row ∈ rfunctTable x, P row.2) (jop : ∀ row ∈ jopTable, P row.2)
    (regimm : ∀ row ∈ regimmTable, P row.2) (iop : ∀ row ∈ iopTable, P row.2) : P (mnemonicOf x w) := by
  unfold mnemonicOf
  cases formatOf w with
  | r =>
    dsimp only
    split
    · exact nop
    · exact lookupKey_induction _ unknown rfunct
  | j => exact lookupKey_induction _ unknown jop
  | i =>
    dsimp only
    split
    · exact lookupKey_induction _ unknown regimm
    · exact lookupKey_induction _ unknown iop

theorem mnemonicId_le (m : Mnemonic) : (mnemonicId m).toNat ≤ 54 := by
  cases m <;> decide

/-- R113: without the extra entries no table holds a mnemonic of the seven ids. -/
theorem mnemonicId_none_not_extra (w : Word) :
    (mnemonicId (mnemonicOf .none w)).toNat ∉ [15, 16, 17, 18, 20, 22, 28] :=
  mnemonicOf_induction (P := fun m => (mnemonicId m).toNat ∉ _) .none w
    (by decide) (by decide) (by decide) (by decide) (by decide) (by decide)

/-! ### The obligations -/

/-- Settles O41: a word moves the address by 4 in either section, a reset loads `CODE_BASE`, an idle step keeps it. -/
theorem addressCounterWriters : Obligations.AddressCounterWriters := by
  intro s t h
  refine ⟨fun hreset => ?_, fun w hword => ?_, fun hreset hword => ?_⟩
  · rw [step_reset h hreset, resetBlock_addr, State.tick_params]
  · obtain ⟨haddr, hovf⟩ := step_word_addr_ovf h hword
    rw [haddr, hovf, BitVec.toNat_add, passesTop_eq_true]
    exact ⟨rfl, Iff.rfl⟩
  · rw [step_idle h hreset hword, State.tick_addr]

/-- Settles O42: the data branch keeps the sentinel, and in the code branch BREAK alone sets it. -/
theorem sentinelWriters : Obligations.SentinelWriters := by
  intro s t h
  refine ⟨fun hreset => ?_, fun w hword => ?_, fun hreset hword => ?_⟩
  · rw [step_reset h hreset, resetBlock_sentinel]
  · obtain ⟨_, ⟨hdata, rfl⟩ | ⟨hcode, _, hbreak, rfl⟩⟩ := step_word h hword
    · simp [hdata]
    · simp [sentinelAfter_eq_true, hbreak, hcode]
  · rw [step_idle h hreset hword, State.tick_sentinel]

/-- Settles O43: the data branch enters DATA, and it runs exactly when the word is data; the code branch keeps CODE. -/
theorem modeWriters : Obligations.ModeWriters := by
  intro s t h
  have mode_word {w} (hword : presentedWord s = some w) :
      t.mode = .data ↔ s.mode = .data ∨ (s.sentinel = true ∧ s.params.dataThreshold.toNat ≤ s.addr.toNat) := by
    rw [← isData_eq_true]
    obtain ⟨_, ⟨hdata, rfl⟩ | ⟨hcode, _, _, rfl⟩⟩ := step_word h hword
    · simp [hdata]
    · have hmode : s.mode ≠ .data := fun hm => by simp [isData, hm] at hcode
      simp [hcode, hmode]
  refine ⟨fun hreset => ?_, fun _ => mode_word, fun hreset hnone => ?_, fun hreset hmode => ?_⟩
  · rw [step_reset h hreset, resetBlock_mode]
  · rw [step_idle h hreset hnone, State.tick_mode]
  · obtain ⟨w, hw⟩ | rfl := presents_word_or_idle h hreset
    · exact (mode_word hw).mpr (.inl hmode)
    · exact hmode

/-- Settles O44: a word is processed only with `ovf` clear, so no step but a reset can clear it. -/
theorem overflowFlagWriters : Obligations.OverflowFlagWriters := by
  refine ⟨fun s t h => ⟨fun hreset => ?_, fun w hword => ⟨(step_word h hword).1, ?_⟩, fun hreset hword => ?_,
    fun hreset hovf => ?_⟩, fun _ _ => step_overflow⟩
  · rw [step_reset h hreset, resetBlock_ovf]
  · rw [(step_word_addr_ovf h hword).2, passesTop_eq_true]
  · rw [step_idle h hreset hword, State.tick_ovf]
  · obtain ⟨w, hword⟩ | rfl := presents_word_or_idle h hreset
    · simp [(step_word h hword).1] at hovf
    · exact hovf

/-- Settles O45: neither a reset, nor an idle step, nor either branch of a word's step writes the parameters. -/
theorem parametersAreFixed : Obligations.ParametersAreFixed := by
  intro s t h
  obtain ⟨_, _, rfl⟩ | ⟨_, _, rfl⟩ | ⟨w, _, _, hword, _⟩ := step_cases h
  · rw [resetBlock_params, State.tick_params]
  · rw [State.tick_params]
  · obtain ⟨_, ⟨_, rfl⟩ | ⟨_, _, _, rfl⟩⟩ := step_word h hword
    · rw [afterData_params, stimulusTaken_params]
    · rw [afterCode_params, stimulusTaken_params]

/-- Settles O55: the ids and spellings by evaluation of the table, and the ids a word can have by the entries of the
four mnemonic tables. -/
theorem mnemonicIds : Obligations.MnemonicIds := by
  refine ⟨rfl, rfl, fun s w hovf hdata => ?_, fun _ _ => mnemonicId_le _, mnemonicId_none_not_extra⟩
  rw [outPorts_of_not_isData w hovf (by simp [hdata])]
  rfl

/-- Settles O32: the step answers `resetBlock`, and `rst` holds both port flags down. -/
theorem resetStepWritesTheResetState : Obligations.ResetStepWritesTheResetState := by
  intro s v w rest hp
  have hstep : step s = .next (resetBlock (s.tick rest)) := by simp [step, stepPending, hp, presentStimulus, blockStep]
  exact ⟨⟨_, hstep, rfl, rfl, rfl, rfl, rfl, rfl, rfl, rfl⟩, by simp [outPorts, idlePorts]⟩

end Sys2Proof.Machine

/-! PROOF. The statements of 30_encoding.md: the overlapping views of a word (R301), the assembled operands (R310 to
R312), the format an opcode selects (R320), and that the instructions' own meanings agree with the decode function of
R350. The last is cut in two: the instruction a word decodes to encodes back to the word, and its meaning emits the
record that the form table (R341) and the multiplexer (R340) give. -/

namespace Sys2Proof

/-! ### The views of a word -/

/-- R301: the immediate view is the low half of the register view. -/
theorem imm16Of_eq_append (w : Word) : imm16Of w = rdOf w ++ shamtOf w ++ functOf w := by
  apply BitVec.eq_of_toNat_eq
  simp only [toNat_append_eq_add, imm16Of_toNat, rdOf_toNat, shamtOf_toNat, functOf_toNat]
  omega

/-- R301: the jump view is the immediate view less the opcode. -/
theorem target26Of_eq_append (w : Word) : target26Of w = rsOf w ++ rtOf w ++ imm16Of w := by
  apply BitVec.eq_of_toNat_eq
  simp only [toNat_append_eq_add, target26Of_toNat, rsOf_toNat, rtOf_toNat, imm16Of_toNat]
  omega

/-! ### The encoder inverts the decoder -/

/-- A relation that holds of every row of a table, and between the key and UNKNOWN, holds between the key and whatever
the table's lookup answers (R10). -/
theorem lookupKey_row_induction {n : Nat} {P : BitVec n → Mnemonic → Prop} {table : List (BitVec n × Mnemonic)}
    (k : BitVec n) (unknown : P k .unknown) (rows : ∀ row ∈ table, P row.1 row.2) : P k (lookupKey table k) := by
  induction table with
  | nil => exact unknown
  | cons row rest ih =>
    obtain ⟨hrow, hrest⟩ := List.forall_mem_cons.mp rows
    unfold lookupKey
    split
    · rename_i hk
      exact hk ▸ hrow
    · exact ih hrest

/-- R330, R401 to R437: the key of an `RFUNCT` row is the one its instruction's rule encodes. -/
theorem encode_registerInstr_lookupKey (x : RFunctExtra) (rs rt rd shamt : RegIndex) (funct : BitVec 6) :
    encode (registerInstr (lookupKey (rfunctTable x) funct) rs rt rd shamt funct) =
      registerWord rs rt rd shamt funct := by
  apply lookupKey_row_induction
    (P := fun k m => encode (registerInstr m rs rt rd shamt k) = registerWord rs rt rd shamt k)
  · rfl
  · cases x <;> intro row hrow <;> fin_cases hrow <;> rfl

/-- R332, R505 to R509: the same for the rows of `REGIMM`. -/
theorem encode_regimmInstr_lookupKey (rs rt : RegIndex) (imm : BitVec 16) :
    encode (regimmInstr (lookupKey regimmTable rt) rs rt imm) = immediateWord regimmOpcode rs rt imm := by
  apply lookupKey_row_induction
    (P := fun k m => encode (regimmInstr m rs k imm) = immediateWord regimmOpcode rs k imm)
  · rfl
  · intro row hrow
    fin_cases hrow <;> rfl

/-- R331, R501 to R540: the same for the rows of `IOP`. -/
theorem encode_immediateInstr_lookupKey (opcode : BitVec 6) (rs rt : RegIndex) (imm : BitVec 16) :
    encode (immediateInstr (lookupKey iopTable opcode) opcode rs rt imm) = immediateWord opcode rs rt imm := by
  apply lookupKey_row_induction
    (P := fun k m => encode (immediateInstr m k rs rt imm) = immediateWord k rs rt imm)
  · rfl
  · intro row hrow
    fin_cases hrow <;> rfl

/-- R333, R601, R602: the same for the rows of `JOP`, which are all the opcodes the dispatcher sends there. -/
theorem encode_jumpInstr_lookupKey {opcode : BitVec 6} (h : formatOfOpcode opcode = .j) (target : BitVec 26) :
    encode (jumpInstr (lookupKey jopTable opcode) target) = jumpWord opcode target := by
  obtain rfl | rfl := (formatOfOpcode_eq_j opcode).mp h <;> rfl

/-- R351: NOP overrides the table on the zero word alone, where every field is zero. -/
theorem registerWord_of_nopOverride {w : Word} (h : nopOverride w = true) :
    registerWord (rsOf w) (rtOf w) (rdOf w) (shamtOf w) (functOf w) = 0x00000000#32 := by
  simp only [nopOverride, Bool.and_eq_true, beq_iff_eq] at h
  obtain ⟨⟨⟨⟨hfunct, hrs⟩, hrt⟩, hrd⟩, hshamt⟩ := h
  rw [hfunct, hrs, hrt, hrd, hshamt]
  rfl

/-- The word of the instruction a word decodes to is that word (R350: no bit is dropped). -/
theorem encode_decode (x : RFunctExtra) (w : Word) : encode (decode x w) = w := by
  unfold decode mnemonicOf
  cases hf : formatOf w with
  | r =>
    have hw := registerWord_fields ((formatOfOpcode_eq_r _).mp hf)
    dsimp only
    split
    · rename_i hnop
      exact (registerWord_of_nopOverride hnop).symm.trans hw
    · exact (encode_registerInstr_lookupKey ..).trans hw
  | j => exact (encode_jumpInstr_lookupKey hf _).trans (jumpWord_fields w)
  | i =>
    dsimp only
    split
    · rename_i hop
      rw [encode_regimmInstr_lookupKey, ← hop, immediateWord_fields]
    · exact (encode_immediateInstr_lookupKey ..).trans (immediateWord_fields w)

namespace Machine

/-! ### The record an instruction's meaning emits -/

/-- The meaning of `i` emits, for its own word, the record that the form table and the multiplexer give a word `w` of
this format and mnemonic (R340, R341), and does nothing else but what processing any word does. -/
def Emits (w : Word) (fmt : Format) (m : Mnemonic) (i : Instr) : Prop :=
  ∀ s, exec i s = .next (afterCode (encode i) ⟨fmt, m, formFor fmt m, mux (formFor fmt m) w⟩ s)

/-- It is enough that the meaning is the code branch with that record. -/
theorem emits_of_codeWord {w : Word} {fmt : Format} {m : Mnemonic} {i : Instr}
    (h : ∀ s, exec i s = .next (codeWord (encode i) fmt m (formFor fmt m) (mux (formFor fmt m) w) s)) :
    Emits w fmt m i :=
  fun s => (h s).trans (congrArg _ (codeWord_eq ..))

/-- R401 to R437: the meanings of the register format emit the forms and operands of the tables. -/
theorem emits_registerInstr_lookupKey (x : RFunctExtra) (w : Word) (k : BitVec 6) :
    Emits w .r (lookupKey (rfunctTable x) k)
      (registerInstr (lookupKey (rfunctTable x) k) (rsOf w) (rtOf w) (rdOf w) (shamtOf w) (functOf w)) := by
  apply lookupKey_induction
    (P := fun m => Emits w .r m (registerInstr m (rsOf w) (rtOf w) (rdOf w) (shamtOf w) (functOf w)))
  · exact emits_of_codeWord fun _ => rfl
  · cases x <;> intro row hrow <;> fin_cases hrow <;> exact emits_of_codeWord fun _ => rfl

/-- R505 to R509: so do those of the REGIMM branches. -/
theorem emits_regimmInstr_lookupKey (w : Word) (k : BitVec 5) :
    Emits w .i (lookupKey regimmTable k)
      (regimmInstr (lookupKey regimmTable k) (rsOf w) (rtOf w) (imm16Of w)) := by
  apply lookupKey_induction (P := fun m => Emits w .i m (regimmInstr m (rsOf w) (rtOf w) (imm16Of w)))
  · exact emits_of_codeWord fun _ => rfl
  · intro row hrow
    fin_cases hrow <;> exact emits_of_codeWord fun _ => rfl

/-- R501 to R540: so do those of the rest of the immediate format. -/
theorem emits_immediateInstr_lookupKey (w : Word) (k : BitVec 6) :
    Emits w .i (lookupKey iopTable k)
      (immediateInstr (lookupKey iopTable k) (opcodeOf w) (rsOf w) (rtOf w) (imm16Of w)) := by
  apply lookupKey_induction
    (P := fun m => Emits w .i m (immediateInstr m (opcodeOf w) (rsOf w) (rtOf w) (imm16Of w)))
  · exact emits_of_codeWord fun _ => rfl
  · intro row hrow
    fin_cases hrow <;> exact emits_of_codeWord fun _ => rfl

/-- R601, R602: so do those of the jump format. -/
theorem emits_jumpInstr_lookupKey {w : Word} (h : formatOf w = .j) :
    Emits w .j (lookupKey jopTable (opcodeOf w)) (jumpInstr (lookupKey jopTable (opcodeOf w)) (target26Of w)) := by
  obtain hop | hop := (formatOfOpcode_eq_j _).mp h <;> rw [hop] <;> exact emits_of_codeWord fun _ => rfl

/-- Every word's instruction emits the record of the word's format and mnemonic. -/
theorem emits_decode (x : RFunctExtra) (w : Word) : Emits w (formatOf w) (mnemonicOf x w) (decode x w) := by
  unfold decode mnemonicOf
  cases hf : formatOf w with
  | r =>
    dsimp only
    split
    · exact emits_of_codeWord fun _ => rfl
    · exact emits_registerInstr_lookupKey x w _
  | j => exact emits_jumpInstr_lookupKey hf
  | i =>
    dsimp only
    split
    · exact emits_regimmInstr_lookupKey w _
    · exact emits_immediateInstr_lookupKey w _

/-! ### The assembled operands -/

/-- The signed immediate is the two's complement value (R310). -/
theorem simm_eq_toInt (v : BitVec 16) : simm v = v.toInt := by
  rw [BitVec.toInt_eq_toNat_cond, simm, sval16]
  split <;> split <;> omega

/-- The operands that the form table and the multiplexer give in the immediate format (R340, R341), mnemonic by
mnemonic: registers, the signed immediate alone or as an offset, and, in LUI's row only, the unsigned one. -/
theorem mux_formFor_immediate (m : Mnemonic) (w : Word) :
    ∀ op ∈ mux (formFor .i m) w,
      (∃ n, op = .reg n) ∨ op = .imm (simm (imm16Of w)) ∨ op = .mem (simm (imm16Of w)) (rsOf w) ∨
        (m = .lui ∧ op = .uimm (uimm (imm16Of w))) := by
  cases m <;> simp [formFor, mux]

theorem decodeFields_operands_of_immediate {w : Word} (x : RFunctExtra) (hf : formatOf w = .i) :
    (decodeFields x w).operands = mux (formFor .i (mnemonicOf x w)) w := by
  rw [← hf]
  rfl

/-- An operand of an immediate-format word. -/
theorem mem_operands_of_immediate {x : RFunctExtra} {w : Word} {op : Operand} (hf : formatOf w = .i)
    (hop : op ∈ (decodeFields x w).operands) :
    (∃ n, op = .reg n) ∨ op = .imm (simm (imm16Of w)) ∨ op = .mem (simm (imm16Of w)) (rsOf w) ∨
      (mnemonicOf x w = .lui ∧ op = .uimm (uimm (imm16Of w))) := by
  rw [decodeFields_operands_of_immediate x hf] at hop
  exact mux_formFor_immediate _ w op hop

/-- LUI's operands (R525): `rt` and the unsigned immediate. -/
theorem operands_of_lui {x : RFunctExtra} {w : Word} (hf : formatOf w = .i) (hm : mnemonicOf x w = .lui) :
    (decodeFields x w).operands = [.reg (rtOf w), .uimm (uimm (imm16Of w))] := by
  rw [decodeFields_operands_of_immediate x hf, hm]
  rfl

/-- A jump address fits the 28 bits of its port (R112, R312). -/
theorem jaddr_lt (t : BitVec 26) : jaddr t < 2 ^ 28 := by
  have := t.isLt
  unfold jaddr
  omega

/-! ### The obligations -/

/-- Settles O30: the record is the one the tables give for the decoded word's own encoding, which is the word. -/
theorem meaningsRefineTheDecodeFunction : Obligations.MeaningsRefineTheDecodeFunction := by
  intro x w s
  have h := emits_decode x w s
  rwa [encode_decode] at h

/-- Settles O3: the value by the sign bit and as the two's complement value, the operands by the form table. -/
theorem signedImmediateFeedsOperands : Obligations.SignedImmediateFeedsOperands := by
  refine ⟨fun v => ⟨fun h => ?_, fun h => ?_, ?_, ?_, ?_⟩, fun s w hovf => ?_, fun x w op hf hop => ?_⟩
  · rw [simm, sval16, if_pos h]
  · rw [simm, sval16, if_neg (by omega)]
  · rw [simm_eq_toInt]; exact v.le_toInt
  · rw [simm_eq_toInt]; exact Int.le_of_lt_add_one v.toInt_lt
  · rw [simm_eq_toInt, simm32, BitVec.toInt_signExtend_of_le (by decide)]
  · obtain ⟨p, hp⟩ := outPorts_eq_withFields s w hovf
    rw [hp]
    rfl
  · obtain ⟨n, rfl⟩ | rfl | rfl | ⟨hlui, rfl⟩ := mem_operands_of_immediate hf hop
    · simp
    · simp
    · simp
    · simp [hlui]

/-- Settles O4: an unsigned operand of an immediate-format word is the one in LUI's form. -/
theorem unsignedImmediateOnlyInLui : Obligations.UnsignedImmediateOnlyInLui := by
  refine ⟨fun v => ⟨rfl, Nat.le_of_lt_succ v.isLt⟩, fun x w v hf => ⟨fun hop => ?_, ?_⟩⟩
  · obtain ⟨_, h⟩ | h | h | ⟨hlui, h⟩ := mem_operands_of_immediate hf hop <;> cases h
    exact ⟨hlui, rfl⟩
  · rintro ⟨hlui, rfl⟩
    simp [operands_of_lui hf hlui]

/-- Settles O2: the ports carry the word's fields in either section, and the views are their concatenations. -/
theorem fieldViewsOverlap : Obligations.FieldViewsOverlap := by
  intro s w hovf
  obtain ⟨p, hp⟩ := outPorts_eq_withFields s w hovf
  rw [hp]
  exact ⟨imm16Of_eq_append w, target26Of_eq_append w, (jumpWord_fields w).symm⟩

/-- Settles O5: the port's 28 bits hold every jump address, so nothing of it is lost. -/
theorem jumpAddressIsTargetTimesFour : Obligations.JumpAddressIsTargetTimesFour := by
  refine ⟨fun t => ⟨rfl, ?_, Nat.mul_mod_left .., ?_⟩, fun s w hovf => ?_⟩
  · rw [toNat_append_eq_add]
    rfl
  · have := t.isLt
    unfold jaddr
    omega
  · obtain ⟨p, hp⟩ := outPorts_eq_withFields s w hovf
    rw [hp]
    exact (BitVec.toNat_ofNat ..).trans (Nat.mod_eq_of_lt (jaddr_lt _))

/-- Settles O6: the three cases are those of the dispatcher, and the counts are over the 64 opcodes. -/
theorem opcodeSelectsFormat : Obligations.OpcodeSelectsFormat := by
  refine ⟨fun w => ⟨(formatOfOpcode_eq_r _).mpr, (formatOfOpcode_eq_j _).mpr, fun h0 h2 h3 => ?_⟩, ?_, ?_, ?_⟩
  · exact (formatOfOpcode_eq_i _).mpr ⟨h0, h2, h3⟩
  all_goals decide

end Machine

end Sys2Proof

/-! PROOF. The statements of 40_rformat.md: the register-format instructions (R401 to R437). A word of opcode 0 is NOP
if it is the zero word, and otherwise what `RFUNCT` holds at its funct (R425). Once its mnemonic is known, its
instruction, form and operands are those of the mnemonic, and it runs as every decoded word does (R350). -/

namespace Sys2Proof.Machine

/-! ### The mnemonic of a word of opcode 0 -/

/-- R351: among the words of opcode 0, the override holds of the zero word alone. -/
theorem nopOverride_eq_true {w : Word} (hop : opcodeOf w = 0x00#6) : nopOverride w = true ↔ w = 0x00000000#32 := by
  constructor
  · intro hnop
    rw [← registerWord_fields hop, registerWord_of_nopOverride hnop]
  · rintro rfl
    rfl

/-- R350, R351: the mnemonic of a register-format word. -/
theorem mnemonicOf_of_opcode_zero (x : RFunctExtra) {w : Word} (hop : opcodeOf w = 0x00#6) :
    mnemonicOf x w = if w = 0x00000000#32 then .nop else lookupKey (rfunctTable x) (functOf w) := by
  have hformat : formatOf w = .r := (formatOfOpcode_eq_r _).mpr hop
  simp only [mnemonicOf, hformat, nopOverride_eq_true hop]

theorem ne_zero_of_functOf_ne_zero {w : Word} (h : functOf w ≠ 0x00#6) : w ≠ 0x00000000#32 := by
  rintro rfl
  exact h rfl

/-- R351: no table holds NOP, so a word of another opcode is never NOP. -/
theorem mnemonicOf_ne_nop_of_opcode_ne_zero (x : RFunctExtra) {w : Word} (hop : opcodeOf w ≠ 0x00#6) :
    mnemonicOf x w ≠ .nop := by
  unfold mnemonicOf
  cases hf : formatOf w with
  | r => exact absurd ((formatOfOpcode_eq_r _).mp hf) hop
  | j => exact lookupKey_induction (P := (· ≠ .nop)) _ (by decide) (by decide)
  | i =>
    dsimp only
    split
    · exact lookupKey_induction (P := (· ≠ .nop)) _ (by decide) (by decide)
    · exact lookupKey_induction (P := (· ≠ .nop)) _ (by decide) (by decide)

theorem lookupKey_rfunctTable_ne_nop (x : RFunctExtra) (k : BitVec 6) : lookupKey (rfunctTable x) k ≠ .nop :=
  lookupKey_induction (P := (· ≠ .nop)) k (by decide) (by cases x <;> decide)

/-- R351, R425: NOP is the zero word. -/
theorem mnemonicOf_eq_nop (x : RFunctExtra) (w : Word) : mnemonicOf x w = .nop ↔ w = 0x00000000#32 := by
  by_cases hop : opcodeOf w = 0x00#6
  · simp [mnemonicOf_of_opcode_zero x hop, lookupKey_rfunctTable_ne_nop]
  · have hw : w ≠ 0x00000000#32 := by
      rintro rfl
      exact hop rfl
    simp [mnemonicOf_ne_nop_of_opcode_ne_zero x hop, hw]

/-! ### The rows of `RFUNCT` -/

/-- R330: a base row is found under either value of `R_FUNCT_EXTRA`. -/
theorem lookupKey_rfunctTable_of_base (x : RFunctExtra) :
    ∀ row ∈ rfunctBase, lookupKey (rfunctTable x) row.1 = row.2 := by
  cases x <;> decide

/-- R430: an extra row is found under `mips1`, and its key is no key under `none`; its key is not SLL's. -/
theorem lookupKey_rfunctTable_of_extra :
    ∀ row ∈ rfunctMips1, row.1 ≠ 0x00#6 ∧ lookupKey (rfunctTable .mips1) row.1 = row.2 ∧
      lookupKey (rfunctTable .none) row.1 = .unknown := by
  decide

/-- The keys of a table, as numbers. -/
theorem isKey_eq_true {n : Nat} {table : List (BitVec n × Mnemonic)} {k : BitVec n} :
    isKey table k = true ↔ k.toNat ∈ table.map fun row => row.1.toNat := by
  simp only [isKey, List.any_eq_true, beq_iff_eq, List.mem_map, BitVec.toNat_inj, eq_comm (a := k)]

/-- R426, R430: a funct that is neither a base key nor, under `mips1`, an extra one resolves to UNKNOWN. -/
theorem lookupKey_rfunctTable_eq_unknown {x : RFunctExtra} {k : BitVec 6}
    (hbase : k.toNat ∉ rfunctBase.map fun row => row.1.toNat)
    (hextra : x = .mips1 → k.toNat ∉ rfunctMips1.map fun row => row.1.toNat) :
    lookupKey (rfunctTable x) k = .unknown := by
  apply lookupKey_of_not_isKey
  rw [Bool.eq_false_iff, Ne, isKey_eq_true]
  cases x with
  | none => exact hbase
  | mips1 =>
    rw [rfunctTable, List.map_append, List.mem_append]
    exact not_or.mpr ⟨hbase, hextra rfl⟩

/-- R401: another word of opcode 0 and funct 0 is SLL, a shift by zero among them. -/
theorem mnemonicOf_eq_sll (x : RFunctExtra) {w : Word} (hop : opcodeOf w = 0x00#6) (hfunct : functOf w = 0x00#6)
    (hw : w ≠ 0x00000000#32) : mnemonicOf x w = .sll := by
  rw [mnemonicOf_of_opcode_zero x hop, if_neg hw, hfunct]
  exact lookupKey_rfunctTable_of_base x (0x00#6, .sll) (by decide)

/-! ### Running a word -/

/-- R350: every word runs as the instruction and the record it decodes to. -/
theorem runsAs_decode (x : RFunctExtra) (w : Word) : RunsAs x w (decode x w) (decodeFields x w) :=
  ⟨rfl, meaningsRefineTheDecodeFunction x w⟩

/-- The word `w` runs as the register-format instruction that `m` names, with the form and operands of `m` (R340,
R341). -/
def RunsNamed (x : RFunctExtra) (w : Word) (m : Mnemonic) : Prop :=
  RunsAs x w (registerInstr m (rsOf w) (rtOf w) (rdOf w) (shamtOf w) (functOf w))
    ⟨.r, m, formFor .r m, mux (formFor .r m) w⟩

/-- R340, R341, R350: a word of opcode 0 runs as the register-format instruction its mnemonic names. -/
theorem runsNamed_of_mnemonicOf {x : RFunctExtra} {w : Word} {m : Mnemonic} (hop : opcodeOf w = 0x00#6)
    (hm : mnemonicOf x w = m) : RunsNamed x w m := by
  have hformat : formatOf w = .r := (formatOfOpcode_eq_r _).mpr hop
  have hrun := runsAs_decode x w
  simpa only [RunsNamed, decode, decodeFields, hformat, hm] using hrun

/-- A word of opcode 0 that is not NOP runs as the instruction the function table names. -/
theorem runsNamed_of_lookupKey {x : RFunctExtra} {w : Word} {m : Mnemonic} (hop : opcodeOf w = 0x00#6)
    (hw : w ≠ 0x00000000#32) (hm : lookupKey (rfunctTable x) (functOf w) = m) : RunsNamed x w m :=
  runsNamed_of_mnemonicOf hop (by rw [mnemonicOf_of_opcode_zero x hop, if_neg hw, hm])

/-- R402 to R422: a word whose funct is the key of a base row, SLL's apart, runs as the row's instruction. -/
theorem runsNamed_of_base {x : RFunctExtra} {w : Word} {k : BitVec 6} (m : Mnemonic) (hop : opcodeOf w = 0x00#6)
    (hk : functOf w = k) (hne : k ≠ 0x00#6 := by decide) (hrow : (k, m) ∈ rfunctBase := by decide) : RunsNamed x w m :=
  runsNamed_of_lookupKey hop (ne_zero_of_functOf_ne_zero (hk ▸ hne)) (hk ▸ lookupKey_rfunctTable_of_base x _ hrow)

/-- R426, R430: a word whose funct is the key of an extra row runs as the row's instruction under `mips1`, and as
UNKNOWN under `none`. -/
theorem runsNamed_of_extra {w : Word} {k : BitVec 6} (m : Mnemonic) (hop : opcodeOf w = 0x00#6) (hk : functOf w = k)
    (hrow : (k, m) ∈ rfunctMips1 := by decide) :
    RunsNamed .mips1 w m ∧ RunsNamed .none w .unknown := by
  subst hk
  obtain ⟨hne, hmips1, hnone⟩ := lookupKey_rfunctTable_of_extra _ hrow
  have hw := ne_zero_of_functOf_ne_zero hne
  exact ⟨runsNamed_of_lookupKey hop hw hmips1, runsNamed_of_lookupKey hop hw hnone⟩

@[simp] theorem lastSpelling_afterCode (w : Word) (d : Decoded) (s : State) :
    lastSpelling (afterCode w d s).listing = instructionText d.mnem d.operands := by
  simp [lastSpelling, afterCode]

/-- R363: the record a word emits is spelled by the mnemonic and operands it decodes to. -/
theorem spells_of_decodeFields {x : RFunctExtra} {w : Word} {text : String}
    (h : instructionText (decodeFields x w).mnem (decodeFields x w).operands = text.toList) : Spells x w text :=
  fun s => ⟨_, meaningsRefineTheDecodeFunction x w s, (lastSpelling_afterCode ..).trans h⟩

/-- A spelling that a word has under each value of `R_FUNCT_EXTRA`. -/
theorem spells_of_both {w : Word} {text : String} (x : RFunctExtra)
    (h : ∀ y ∈ [RFunctExtra.none, RFunctExtra.mips1],
      instructionText (decodeFields y w).mnem (decodeFields y w).operands = text.toList := by decide) :
    Spells x w text :=
  spells_of_decodeFields (h x (by cases x <;> decide))

/-! ### BREAK and the section tracker -/

/-- R103, R654: a word presented in DATA is processed as data. -/
theorem processWord_of_mode_data {s : State} (w : Word) (hmode : s.mode = .data) :
    processWord w s = .next (afterData w s) := by
  rw [processWord, if_pos ((isData_eq_true s).mpr (.inl hmode)), dataWord_eq]

/-- R650: in CODE and below the threshold the next word is not data, whatever the sentinel. -/
theorem isData_eq_false_of_below_threshold {s : State} (hmode : s.mode = .code)
    (hbelow : s.addr.toNat < s.params.dataThreshold.toNat) : isData s = false := by
  rw [Bool.eq_false_iff, Ne, isData_eq_true, hmode]
  rintro (h | ⟨_, h⟩)
  · cases h
  · omega

/-! ### The obligations -/

/-- Settles O7: the zero word alone overrides the function table, which holds SLL at 0 and NOP nowhere. -/
theorem nopIsTheZeroWord : Obligations.NopIsTheZeroWord := by
  refine ⟨mnemonicOf_eq_nop, fun x => ⟨?_, spells_of_both x⟩, fun x _ => mnemonicOf_eq_sll x, fun x w hop hfunct => ?_,
    fun w => mt (formatOfOpcode_eq_r _).mp⟩
  · exact runsNamed_of_mnemonicOf (m := .nop) rfl ((mnemonicOf_eq_nop x _).mpr rfl)
  · rw [mnemonicOf_of_opcode_zero x hop, if_neg (ne_zero_of_functOf_ne_zero hfunct)]

/-- Settles O10: SLL shares its key with NOP; SRL and SRA are rows of their own. -/
theorem shiftAmountInstructions : Obligations.ShiftAmountInstructions :=
  ⟨fun x _ hop => ⟨fun hfunct hw => runsNamed_of_mnemonicOf (m := .sll) hop (mnemonicOf_eq_sll x hop hfunct hw),
      runsNamed_of_base .srl hop, runsNamed_of_base .sra hop⟩,
    fun x => by and_intros <;> exact spells_of_both x⟩

/-- Settles O11: three base rows, whose form puts `rt` before `rs`. -/
theorem shiftVariableInstructions : Obligations.ShiftVariableInstructions :=
  ⟨fun _ _ hop => ⟨runsNamed_of_base .sllv hop, runsNamed_of_base .srlv hop, runsNamed_of_base .srav hop⟩,
    fun x => by and_intros <;> exact spells_of_both x⟩

/-- Settles O12: two base rows; a jump's address moves as any word's does. -/
theorem registerJumps : Obligations.RegisterJumps :=
  ⟨fun _ _ hop => ⟨runsNamed_of_base .jr hop, runsNamed_of_base .jalr hop⟩,
    fun x => by and_intros <;> exact spells_of_both x⟩

/-- Settles O13: a base row without operands. -/
theorem syscallIsOnlyNamed : Obligations.SyscallIsOnlyNamed :=
  ⟨fun _ _ hop => runsNamed_of_base .syscall hop, fun x => by and_intros <;> exact spells_of_both x⟩

/-- Settles O14: the state BREAK leaves is the one of the code branch, with the sentinel set and the mode kept. -/
theorem breakSetsTheSentinel : Obligations.BreakSetsTheSentinel := by
  refine ⟨fun x w hop hfunct => ?_, fun x => by and_intros <;> exact spells_of_both x⟩
  have hruns : RunsAs x w (.brk (rsOf w) (rtOf w) (rdOf w) (shamtOf w)) ⟨.r, .brk, .none, []⟩ :=
    runsNamed_of_base .brk hop hfunct
  have hnext {s t : State} (h : exec (decode x w) s = .next t) : t = afterCode w ⟨.r, .brk, .none, []⟩ s := by
    obtain ⟨hdecode, hexec⟩ := hruns
    rw [hdecode, hexec] at h
    injection h with h
    exact h.symm
  refine ⟨hruns, fun s t h => ?_, fun s => processWord_of_mode_data w, fun s t hmode h hbelow => ?_⟩
  · rw [hnext h, afterCode_sentinel, sentinelAfter_eq_true]
    exact .inr rfl
  · refine isData_eq_false_of_below_threshold ?_ hbelow
    rw [hnext h, afterCode_mode, hmode]

/-- Settles O15: four base rows with one register operand each. -/
theorem hiLoMoves : Obligations.HiLoMoves :=
  ⟨fun _ _ hop => ⟨runsNamed_of_base .mfhi hop, runsNamed_of_base .mthi hop, runsNamed_of_base .mflo hop,
      runsNamed_of_base .mtlo hop⟩,
    fun x => by and_intros <;> exact spells_of_both x⟩

/-- Settles O16: seven base rows of one form. -/
theorem threeRegisterInstructions : Obligations.ThreeRegisterInstructions :=
  ⟨fun _ _ hop => ⟨runsNamed_of_base .add hop, runsNamed_of_base .sub hop, runsNamed_of_base .and hop,
      runsNamed_of_base .or hop, runsNamed_of_base .xor hop, runsNamed_of_base .nor hop, runsNamed_of_base .slt hop⟩,
    fun x => by and_intros <;> exact spells_of_both x⟩

/-- Settles O17: 0 is a key, so such a word is not NOP, and the function table answers UNKNOWN. -/
theorem unknownFunctionCodes : Obligations.UnknownFunctionCodes := by
  refine ⟨fun x w hop hbase hextra => ?_, fun x => by and_intros <;> exact spells_of_both x⟩
  have hfunct : functOf w ≠ 0x00#6 := fun h => hbase (by rw [h]; decide)
  exact runsNamed_of_lookupKey hop (ne_zero_of_functOf_ne_zero hfunct) (lookupKey_rfunctTable_eq_unknown hbase hextra)

/-- Settles O18: the seven extra rows, found under `mips1` and absent under `none`. -/
theorem extraFunctionCodes : Obligations.ExtraFunctionCodes := by
  refine ⟨fun w hop => ⟨runsNamed_of_extra .mult hop, runsNamed_of_extra .multu hop, runsNamed_of_extra .div hop,
    runsNamed_of_extra .divu hop, runsNamed_of_extra .addu hop, runsNamed_of_extra .subu hop,
    runsNamed_of_extra .sltu hop⟩, ?_⟩
  and_intros <;> exact spells_of_decodeFields (by decide)

end Sys2Proof.Machine

/-! PROOF. The statements of 41_iformat.md: the immediate-format instructions (R501 to R540). A word of opcode 1 is
what `REGIMM` holds at its `rt`, and any other immediate-format word is what `IOP` holds at its opcode. Once its
mnemonic is known, its instruction, form and operands are those of the mnemonic, and it runs as every decoded word
does (R350). -/

namespace Sys2Proof.Machine

/-! ### Decoding a word of the immediate format -/

/-- The record of an immediate-format word named `m`: the form of `m` and the operands it routes (R340, R341). -/
def immediateRecord (m : Mnemonic) (w : Word) : Decoded :=
  ⟨.i, m, formFor .i m, mux (formFor .i m) w⟩

theorem decodeFields_of_immediate {x : RFunctExtra} {w : Word} {m : Mnemonic} (hf : formatOf w = .i)
    (hm : mnemonicOf x w = m) : decodeFields x w = immediateRecord m w := by
  rw [decodeFields, hf, hm, immediateRecord]

theorem formatOf_of_regimm {w : Word} (hop : opcodeOf w = regimmOpcode) : formatOf w = .i :=
  (formatOfOpcode_eq_i _).mpr (by rw [hop]; decide)

/-- R332: a REGIMM word is named by the row of `REGIMM` at its `rt`. -/
theorem mnemonicOf_of_regimm (x : RFunctExtra) {w : Word} (hop : opcodeOf w = regimmOpcode) :
    mnemonicOf x w = lookupKey regimmTable (rtOf w) := by
  simp only [mnemonicOf, formatOf_of_regimm hop, if_pos hop]

theorem decode_of_regimm (x : RFunctExtra) {w : Word} (hop : opcodeOf w = regimmOpcode) :
    decode x w = regimmInstr (mnemonicOf x w) (rsOf w) (rtOf w) (imm16Of w) := by
  simp only [decode, formatOf_of_regimm hop, if_pos hop]

/-- R331: any other immediate-format word is named by the row of `IOP` at its opcode. -/
theorem mnemonicOf_of_immediate (x : RFunctExtra) {w : Word} (hf : formatOf w = .i)
    (hop : opcodeOf w ≠ regimmOpcode) : mnemonicOf x w = lookupKey iopTable (opcodeOf w) := by
  simp only [mnemonicOf, hf, if_neg hop]

theorem decode_of_immediate (x : RFunctExtra) {w : Word} (hf : formatOf w = .i) (hop : opcodeOf w ≠ regimmOpcode) :
    decode x w = immediateInstr (mnemonicOf x w) (opcodeOf w) (rsOf w) (rtOf w) (imm16Of w) := by
  simp only [decode, hf, if_neg hop]

/-! ### The rows of `IOP` and `REGIMM` -/

/-- R331: the dispatcher sends the key of every `IOP` row to that table, and the lookup finds the row. -/
theorem iopTable_row : ∀ row ∈ iopTable,
    formatOfOpcode row.1 = .i ∧ row.1 ≠ regimmOpcode ∧ lookupKey iopTable row.1 = row.2 := by
  decide

/-- R540: an opcode that is neither 0, 1, a jump key nor a key of `IOP` is dispatched to that table too, and the lookup
answers UNKNOWN. -/
theorem iopTable_absent {k : BitVec 6}
    (h : k.toNat ∉ [0x00, 0x01, 0x02, 0x03] ++ iopTable.map fun row => row.1.toNat) :
    formatOfOpcode k = .i ∧ k ≠ regimmOpcode ∧ lookupKey iopTable k = .unknown := by
  obtain ⟨hother, hiop⟩ := not_or.mp (mt List.mem_append.mpr h)
  have hne {c : BitVec 6} (hc : c.toNat ∈ [0x00, 0x01, 0x02, 0x03]) : k ≠ c := fun hk => hother (hk ▸ hc)
  refine ⟨(formatOfOpcode_eq_i k).mpr ⟨hne (by decide), hne (by decide), hne (by decide)⟩, hne (by decide), ?_⟩
  apply lookupKey_of_not_isKey
  rwa [Bool.eq_false_iff, Ne, isKey_eq_true]

theorem lookupKey_regimmTable_row : ∀ row ∈ regimmTable, lookupKey regimmTable row.1 = row.2 := by
  decide

/-! ### Running a word of the immediate format -/

/-- R332, R509: a REGIMM word runs as the instruction `REGIMM` names. -/
theorem runsAs_of_regimm_lookupKey {x : RFunctExtra} {w : Word} {m : Mnemonic} (hop : opcodeOf w = regimmOpcode)
    (hm : lookupKey regimmTable (rtOf w) = m) :
    RunsAs x w (regimmInstr m (rsOf w) (rtOf w) (imm16Of w)) (immediateRecord m w) := by
  have hname : mnemonicOf x w = m := (mnemonicOf_of_regimm x hop).trans hm
  have hrun := runsAs_decode x w
  rwa [decode_of_regimm x hop, decodeFields_of_immediate (formatOf_of_regimm hop) hname, hname] at hrun

/-- R331, R540: a word of another opcode runs as the instruction `IOP` names. -/
theorem runsAs_of_iop_lookupKey {x : RFunctExtra} {w : Word} {m : Mnemonic} (hf : formatOf w = .i)
    (hop : opcodeOf w ≠ regimmOpcode) (hm : lookupKey iopTable (opcodeOf w) = m) :
    RunsAs x w (immediateInstr m (opcodeOf w) (rsOf w) (rtOf w) (imm16Of w)) (immediateRecord m w) := by
  have hname : mnemonicOf x w = m := (mnemonicOf_of_immediate x hf hop).trans hm
  have hrun := runsAs_decode x w
  rwa [decode_of_immediate x hf hop, decodeFields_of_immediate hf hname, hname] at hrun

/-- R505 to R508: the words of a `REGIMM` row. -/
theorem runsAs_of_regimm_row {x : RFunctExtra} {w : Word} {k : BitVec 5} (m : Mnemonic)
    (hop : opcodeOf w = regimmOpcode) (hk : rtOf w = k) (hrow : (k, m) ∈ regimmTable := by decide) :
    RunsAs x w (regimmInstr m (rsOf w) (rtOf w) (imm16Of w)) (immediateRecord m w) :=
  runsAs_of_regimm_lookupKey hop (hk ▸ lookupKey_regimmTable_row _ hrow)

/-- R501 to R537: the words of an `IOP` row. -/
theorem runsAs_of_iop_row {x : RFunctExtra} {w : Word} {k : BitVec 6} (m : Mnemonic) (hk : opcodeOf w = k)
    (hrow : (k, m) ∈ iopTable := by decide) :
    RunsAs x w (immediateInstr m (opcodeOf w) (rsOf w) (rtOf w) (imm16Of w)) (immediateRecord m w) := by
  subst hk
  obtain ⟨hf, hop, hm⟩ := iopTable_row _ hrow
  exact runsAs_of_iop_lookupKey hf hop hm

/-! ### The obligations -/

/-- Settles O19: two rows of `IOP`, whose form names both registers. -/
theorem twoRegisterBranches : Obligations.TwoRegisterBranches :=
  ⟨fun _ _ => ⟨runsAs_of_iop_row .beq, runsAs_of_iop_row .bne⟩,
    fun x => by and_intros <;> exact spells_of_both x⟩

/-- Settles O20: two rows of `IOP`, whose form leaves `rt` out. -/
theorem oneRegisterBranches : Obligations.OneRegisterBranches :=
  ⟨fun _ _ => ⟨runsAs_of_iop_row .blez, runsAs_of_iop_row .bgtz⟩,
    fun x => by and_intros <;> exact spells_of_both x⟩

/-- Settles O21: the four rows of `REGIMM`; an `rt` that is the key of none of them resolves to UNKNOWN. -/
theorem regimmInstructions : Obligations.RegimmInstructions := by
  refine ⟨fun x w hop => ⟨runsAs_of_regimm_row .bltz hop, runsAs_of_regimm_row .bgez hop,
    runsAs_of_regimm_row .bltzal hop, runsAs_of_regimm_row .bgezal hop, fun h0 h1 h16 h17 => ?_⟩, by decide,
    fun x => by and_intros <;> exact spells_of_both x⟩
  have hkey : isKey regimmTable (rtOf w) = false := by simp [isKey, regimmTable, h0, h1, h16, h17]
  exact runsAs_of_regimm_lookupKey hop (lookupKey_of_not_isKey hkey)

/-- Settles O22: six rows of `IOP` of one form, the logical ones among them. -/
theorem immediateArithmetic : Obligations.ImmediateArithmetic :=
  ⟨fun _ _ => ⟨runsAs_of_iop_row .addi, runsAs_of_iop_row .addiu, runsAs_of_iop_row .slti, runsAs_of_iop_row .andi,
      runsAs_of_iop_row .ori, runsAs_of_iop_row .xori⟩,
    fun x => by and_intros <;> exact spells_of_both x⟩

/-- Settles O23: a row of `IOP`, whose form routes the unsigned immediate. -/
theorem luiPrintsUnsigned : Obligations.LuiPrintsUnsigned :=
  ⟨fun _ _ => runsAs_of_iop_row .lui, fun x => by and_intros <;> exact spells_of_both x⟩

/-- Settles O24: eight rows of `IOP` of one form; the record names the access and nothing makes it. -/
theorem loadsAndStores : Obligations.LoadsAndStores :=
  ⟨fun _ _ => ⟨runsAs_of_iop_row .lb, runsAs_of_iop_row .lh, runsAs_of_iop_row .lw, runsAs_of_iop_row .lbu,
      runsAs_of_iop_row .lhu, runsAs_of_iop_row .sb, runsAs_of_iop_row .sh, runsAs_of_iop_row .sw⟩,
    fun x => by and_intros <;> exact spells_of_both x⟩

/-- Settles O25: the listed opcodes are those of the other cases of the dispatch, then the keys of `IOP`. -/
theorem unknownOpcodes : Obligations.UnknownOpcodes := by
  refine ⟨fun x w hop => ?_, by decide, fun x => by and_intros <;> exact spells_of_both x⟩
  obtain ⟨hf, hne, hm⟩ := iopTable_absent hop
  exact runsAs_of_iop_lookupKey hf hne hm

end Sys2Proof.Machine

/-! PROOF. The statement of 42_jformat.md: the jump-format instructions (R601, R602). A word of opcode 2 or 3 is what
`JOP` holds at its opcode, and it runs as every decoded word does (R350). -/

namespace Sys2Proof.Machine

/-- R333: the dispatcher sends the key of every `JOP` row to that table, and the lookup finds the row. -/
theorem jopTable_row : ∀ row ∈ jopTable, formatOfOpcode row.1 = .j ∧ lookupKey jopTable row.1 = row.2 := by
  decide

/-- R333, R600: the words of a `JOP` row run as the row's instruction, with the jump address as their one operand. -/
theorem runsAs_of_jop_row {x : RFunctExtra} {w : Word} {k : BitVec 6} (m : Mnemonic) (hk : opcodeOf w = k)
    (hrow : (k, m) ∈ jopTable := by decide) :
    RunsAs x w (jumpInstr m (target26Of w)) ⟨.j, m, .target, [.addr (jaddr (target26Of w))]⟩ := by
  subst hk
  obtain ⟨hformat : formatOf w = .j, hm⟩ := jopTable_row _ hrow
  have hname : mnemonicOf x w = m := by simpa only [mnemonicOf, hformat] using hm
  have hrun := runsAs_decode x w
  simpa only [decode, decodeFields, hformat, hname, formFor, mux] using hrun

/-- Settles O26: the two rows of `JOP`, of one form; the jump is only named, as the address moves as any word's does. -/
theorem jumpInstructions : Obligations.JumpInstructions :=
  ⟨fun _ _ => ⟨runsAs_of_jop_row .j, runsAs_of_jop_row .jal⟩, fun x => by and_intros <;> exact spells_of_both x⟩

end Sys2Proof.Machine

/-! PROOF. The statements of 43_listing.md: a presented word is processed as data or as the instruction it decodes to
(R650, R654), each gives one record (R655), and records, words and operands are spelled as lines (R660 to R663). -/

namespace Sys2Proof.Machine

/-! ### Processing a presented word -/

/-- R650: on a block that has been reset and has not passed its top, a presented word is processed. -/
theorem step_eq_processWord {s : State} {w : Word} (hword : presentedWord s = some w) (hdone : s.resetDone = true)
    (hovf : s.ovf = false) : step s = processWord w (stimulusTaken s) := by
  rw [step_eq_blockStep hword]
  simp [blockStep, hdone, hovf]

theorem processWord_of_isData {s : State} (w : Word) (hdata : isData s = true) :
    processWord w s = .next (afterData w s) := by
  rw [processWord, if_pos hdata, dataWord_eq]

theorem processWord_of_not_isData {s : State} (w : Word) (hcode : isData s = false) :
    processWord w s = exec (decode s.params.rFunctExtra w) s := by
  rw [processWord, if_neg (Bool.eq_false_iff.mp hcode)]

/-- R650: in CODE a word is not data while the sentinel is clear or its address is below the threshold. -/
theorem isData_eq_false_of_mode_code {s : State} (hmode : s.mode = .code)
    (hgate : s.sentinel = false ∨ s.addr.toNat < s.params.dataThreshold.toNat) : isData s = false := by
  rcases hgate with hclear | hbelow
  · simp [isData, hmode, hclear]
  · exact isData_eq_false_of_below_threshold hmode hbelow

/-! ### The record a word emits -/

@[simp] theorem afterCode_listing (w : Word) (d : Decoded) (s : State) :
    (afterCode w d s).listing = s.listing ++ [.code s.addr w d.format d.mnem d.form d.operands] := rfl
@[simp] theorem afterData_listing (w : Word) (s : State) :
    (afterData w s).listing = s.listing ++ [.data s.addr w] := rfl

/-- R655: a processed word appends one record, which carries the word, the address before the step, and whether the
word was data. -/
theorem step_word_listing {s t : State} {w : Word} (h : step s = .next t) (hword : presentedWord s = some w) :
    ∃ r, t.listing = s.listing ++ [r] ∧ recordWord r = w ∧ recordAddr r = s.addr ∧ recordIsData r = isData s := by
  obtain ⟨_, ⟨hdata, rfl⟩ | ⟨hcode, _, _, rfl⟩⟩ := step_word h hword
  · exact ⟨_, afterData_listing .., rfl, rfl, hdata.symm⟩
  · exact ⟨_, afterCode_listing .., encode_decode .., rfl, hcode.symm⟩

/-- R655: one more record is one more line. -/
theorem listingLines_of_listing_append {s t : State} {r : Record} (h : t.listing = s.listing ++ [r]) :
    listingLines t = listingLines s ++ [recordLine r] := by
  simp [listingLines, h]

/-! ### The characters of a word -/

theorem bitChar_ne_space (b : Bool) : bitChar b ≠ ' ' := by
  cases b <;> decide

theorem space_not_mem_rawBits (w : Word) : ' ' ∉ rawBits w := by
  simp [rawBits, bitChar_ne_space]

/-- One group of a word: `n` of its characters from character `i` on (R662). -/
def bitGroup (w : Word) (i n : Nat) : Text := ((rawBits w).drop i).take n

theorem bitGroup_length {w : Word} {i n : Nat} (h : i + n ≤ 32) : (bitGroup w i n).length = n := by
  simp only [bitGroup, List.length_take, List.length_drop, rawBits_length]
  omega

theorem space_not_mem_bitGroup (w : Word) (i n : Nat) : ' ' ∉ bitGroup w i n :=
  fun h => space_not_mem_rawBits w (List.mem_of_mem_drop (List.mem_of_mem_take h))

/-- Neighbouring groups are one group. -/
theorem bitGroup_append (w : Word) (i m n : Nat) : bitGroup w i m ++ bitGroup w (i + m) n = bitGroup w i (m + n) := by
  rw [bitGroup, bitGroup, bitGroup, List.take_add, List.drop_drop]

theorem bitGroup_whole (w : Word) : bitGroup w 0 32 = rawBits w := by
  rw [bitGroup, List.drop_zero, List.take_of_length_le (rawBits_length w).le]

/-- R662: the six groups, a space after each but the last. -/
theorem groupedBits_eq_groups (w : Word) :
    groupedBits w = bitGroup w 0 6 ++ ' ' :: (bitGroup w 6 5 ++ ' ' :: (bitGroup w 11 5 ++ ' ' ::
      (bitGroup w 16 5 ++ ' ' :: (bitGroup w 21 5 ++ ' ' :: bitGroup w 26 6)))) := by
  have hlast : bitGroup w 26 6 = (rawBits w).drop 26 := List.take_of_length_le (by simp)
  rw [hlast]
  simp [groupedBits, bitGroup]

theorem getElem?_bitGroup_ne_space (w : Word) (i n k : Nat) : (bitGroup w i n)[k]? ≠ some ' ' :=
  fun h => space_not_mem_bitGroup w i n (List.mem_of_getElem? h)

/-- The spaces of a group with a text after it: the one that ends the group, then those of the text. -/
theorem getElem?_bitGroup_append_eq_space (w : Word) {i n : Nat} (h : i + n ≤ 32) (rest : Text) (k : Nat) :
    (bitGroup w i n ++ ' ' :: rest)[k]? = some ' ' ↔ k = n ∨ (n < k ∧ rest[k - n - 1]? = some ' ') := by
  have hlength := bitGroup_length (w := w) h
  rcases Nat.lt_trichotomy k n with hlt | rfl | hgt
  · rw [List.getElem?_append_left (by omega)]
    simp only [getElem?_bitGroup_ne_space, false_iff]
    omega
  · simp [hlength]
  · obtain ⟨j, rfl⟩ := Nat.exists_eq_add_of_lt hgt
    rw [List.getElem?_append_right (by omega), hlength]
    simp [Nat.add_assoc]

theorem filter_bitGroup (w : Word) (i n : Nat) : (bitGroup w i n).filter (· != ' ') = bitGroup w i n :=
  List.filter_eq_self.mpr fun c hc => by
    have hne : c ≠ ' ' := fun h => space_not_mem_bitGroup w i n (h ▸ hc)
    simpa using hne

theorem groupedBits_length (w : Word) : (groupedBits w).length = 37 := by
  simp [groupedBits_eq_groups, bitGroup_length]

/-- Without its spaces a grouped word is the raw one: the groups meet at their ends. -/
theorem groupedBits_filter (w : Word) : (groupedBits w).filter (· != ' ') = rawBits w := by
  have hjoin : (groupedBits w).filter (· != ' ') = bitGroup w 0 6 ++ (bitGroup w 6 5 ++ (bitGroup w 11 5 ++
      (bitGroup w 16 5 ++ (bitGroup w 21 5 ++ bitGroup w 26 6)))) := by
    simp [groupedBits_eq_groups, List.filter_append, filter_bitGroup]
  rw [hjoin, bitGroup_append w 21, bitGroup_append w 16, bitGroup_append w 11, bitGroup_append w 6,
    bitGroup_append w 0, bitGroup_whole]

/-- A grouped word has its spaces after characters 6, 11, 16, 21 and 26. -/
theorem getElem?_groupedBits_eq_space (w : Word) (k : Nat) :
    (groupedBits w)[k]? = some ' ' ↔ k ∈ [6, 12, 18, 24, 30] := by
  simp only [groupedBits_eq_groups, getElem?_bitGroup_append_eq_space, getElem?_bitGroup_ne_space, Nat.reduceAdd,
    Nat.reduceLeDiff, and_false, or_false, List.mem_cons, List.not_mem_nil]
  omega

/-! ### Operands and lines -/

/-- R660: the operand list is the library's joining by a comma and one space. -/
theorem operandsText_eq_intercalate (ops : List Operand) :
    operandsText ops = (", ".toList).intercalate (ops.map operandText) := by
  induction ops with
  | nil => rfl
  | cons op rest ih =>
    cases rest with
    | nil => simp [operandsText]
    | cons op' rest =>
      simp only [operandsText, ih, List.map_cons, List.intercalate_cons_cons]

/-- R663: six spaces and a tab between the word and its address. -/
theorem dataLine_eq (a w : Word) :
    dataLine a w = rawBits w ++ "      \t".toList ++ decNat a.toNat ++ "\t".toList ++ decNat w.toNat := by
  have hgap : "      \t".toList = "      ".toList ++ "\t".toList := rfl
  rw [hgap, ← List.append_assoc, dataLine]

/-- R363: only an instruction with operands has a tab after its mnemonic. -/
theorem instructionText_eq (m : Mnemonic) (ops : List Operand) :
    instructionText m ops = mnemonicText m ++ if ops = [] then [] else "\t".toList ++ operandsText ops := by
  cases ops <;> rfl

/-! ### The obligations -/

/-- Settles O46: either branch of a word's step appends its one record, and an idle step appends none. -/
theorem oneRecordPerWord : Obligations.OneRecordPerWord := by
  intro s t h
  refine ⟨fun w hword => ?_, fun hreset hword => ?_⟩
  · obtain ⟨r, hlisting, hrecord⟩ := step_word_listing h hword
    exact ⟨r, hlisting, listingLines_of_listing_append hlisting, hrecord⟩
  · rw [step_idle h hreset hword, State.tick_listing]

/-- Settles O56: a grouped word is six groups of the word's characters, with a space after each but the last. -/
theorem groupedBitsSplitAtFields : Obligations.GroupedBitsSplitAtFields :=
  fun w => ⟨groupedBits_length w, groupedBits_filter w, fun k _ => getElem?_groupedBits_eq_space w k⟩

/-- Settles O38: such a word is processed, and it is not data. -/
theorem stepRunsTheDecodedInstruction : Obligations.StepRunsTheDecodedInstruction := by
  rintro s w i hword rfl hdone hovf hmode hgate
  rw [step_eq_processWord hword hdone hovf]
  exact processWord_of_not_isData w (isData_eq_false_of_mode_code (s := stimulusTaken s) hmode hgate)

/-- Settles O40: such a word is processed, and it is data; no bit of it is read. -/
theorem dataWordsAreNotDecoded : Obligations.DataWordsAreNotDecoded := by
  refine ⟨fun s w hword hdone hovf hdata => ?_, fun a w => ⟨Nat.le_of_lt_succ w.isLt, dataLine_eq a w⟩⟩
  rw [step_eq_processWord hword hdone hovf]
  exact processWord_of_isData w ((isData_eq_true (stimulusTaken s)).mpr hdata)

/-- Settles O59: an equation per operand kind, and the joined list by induction on the operands. -/
theorem operandTexts : Obligations.OperandTexts := by
  refine ⟨fun _ => rfl, fun _ => rfl, fun _ => ⟨rfl, rfl⟩, fun off base => ?_, operandsText_eq_intercalate,
    by decide, by decide⟩
  simp [registerName]

/-- Settles O60: the two lines by their definitions, and the two vectors by evaluation. -/
theorem lineShapes : Obligations.LineShapes := by
  refine ⟨fun _ => rfl, fun a w fmt m form ops => ?_, fun _ _ => rfl, by decide, by decide⟩
  rw [recordLine, codeLine, instructionText_eq, List.append_assoc _ (mnemonicText m)]

end Sys2Proof.Machine

/-! PROOF. The statements of 60_exceptions.md: every instruction completes (R800), a word past the counter's top faults
(R802), and the fixed priority within a step (R806). -/

namespace Sys2Proof.Machine

/-! ### What the code branch leaves to the host -/

@[simp] theorem afterCode_resetDone (w : Word) (d : Decoded) (s : State) :
    (afterCode w d s).resetDone = s.resetDone := rfl
@[simp] theorem afterCode_pending (w : Word) (d : Decoded) (s : State) : (afterCode w d s).pending = s.pending := rfl
@[simp] theorem afterCode_pastListings (w : Word) (d : Decoded) (s : State) :
    (afterCode w d s).pastListings = s.pastListings := rfl
@[simp] theorem afterCode_recordsTaken (w : Word) (d : Decoded) (s : State) :
    (afterCode w d s).recordsTaken = s.recordsTaken := rfl
@[simp] theorem afterCode_draws (w : Word) (d : Decoded) (s : State) : (afterCode w d s).draws = s.draws := rfl

/-! ### A word past the counter's top, and a word that is processed -/

/-- R112, R802: while `ovf` is set no port but the ever driven ones says anything of the word. -/
theorem outPorts_of_ovf {s : State} (w : Word) (hovf : s.ovf = true) :
    outPorts s false true w = idlePorts s false true := by
  simp [outPorts, idlePorts, hovf]

/-- R800: processing a word answers a next state, as data or by the meaning of its instruction. -/
theorem processWord_completes (w : Word) (s : State) : ∃ t, processWord w s = .next t := by
  cases hdata : isData s with
  | true => exact ⟨_, processWord_of_isData w hdata⟩
  | false => exact ⟨_, (processWord_of_not_isData w hdata).trans (meaningsRefineTheDecodeFunction _ w s)⟩

/-! ### The step of the ports -/

theorem step_of_ports {s : State} {rst v : Bool} {w : Word} {rest : List Stimulus}
    (hp : s.pending = .ports rst v w :: rest) : step s = blockStep rst v w (s.tick rest) := by
  simp [step, stepPending, hp, presentStimulus]

/-- R806, case 3. -/
theorem blockStep_overflow (w : Word) {s : State} (hdone : s.resetDone = true) (hovf : s.ovf = true) :
    blockStep false true w s = addressOverflow s := by
  simp [blockStep, hdone, hovf]

/-- R806, case 4. -/
theorem blockStep_process (w : Word) {s : State} (hdone : s.resetDone = true) (hovf : s.ovf = false) :
    blockStep false true w s = processWord w s := by
  simp [blockStep, hdone, hovf]

/-! ### The obligations -/

/-- Settles O27: every instruction is one code branch over its own word, which writes four fields and no other. -/
theorem everyInstructionCompletes : Obligations.EveryInstructionCompletes := by
  intro i s
  obtain ⟨d, _, hexec⟩ := exec_eq_afterCode i
  have hovf : (afterCode (encode i) d s).ovf = true ↔ s.ovf = true ∨ 2 ^ 32 ≤ s.addr.toNat + 4 := by
    rw [afterCode_ovf, Bool.or_eq_true, passesTop_eq_true]
  have hsentinel : (afterCode (encode i) d s).sentinel = true ↔ s.sentinel = true ∨ d.mnem = .brk := by
    rw [afterCode_sentinel, sentinelAfter_eq_true]
  exact ⟨_, d, hexec s, afterCode_listing .., afterCode_addr .., hovf, hsentinel, afterCode_mode ..,
    afterCode_params .., afterCode_resetDone .., afterCode_pending .., afterCode_pastListings ..,
    afterCode_recordsTaken .., afterCode_draws ..⟩

/-- Settles O36: with `ovf` set a word faults and drives `out_fault` alone, so a step that answers a next state was
idle; with `ovf` clear the word is processed, which always completes. -/
theorem addressOverflowFaults : Obligations.AddressOverflowFaults := by
  refine ⟨fun s w => step_overflow, fun s w hovf => ?_, fun s w hword hdone hovf => ?_, fun s t hovf h hreset => ?_⟩
  · rw [outPorts_of_ovf w hovf]
    simp [idlePorts, hovf]
  · obtain ⟨t, hprocess⟩ := processWord_completes w (stimulusTaken s)
    have h : step s = .next t := (step_eq_processWord hword hdone hovf).trans hprocess
    obtain ⟨r, hlisting, hrecord, _⟩ := step_word_listing h hword
    refine ⟨t, r, h, hlisting, hrecord, ?_⟩
    rw [(step_word_addr_ovf h hword).2, passesTop_eq_true]
  · obtain ⟨w, hword⟩ | rfl := presents_word_or_idle h hreset
    · simp [(step_word h hword).1] at hovf
    · exact ⟨hovf, State.tick_addr .., State.tick_listing ..⟩

/-- Settles O37: one case of `blockStep` after another, and in the last the two branches of a processed word. -/
theorem stepPriority : Obligations.StepPriority := by
  intro s rst v w rest hp hdone u
  rw [step_of_ports hp]
  refine ⟨?reset, ?idle, ?overflow, ?process⟩
  case reset =>
    rintro rfl
    exact ⟨resetBlock u, rfl, rfl, rfl, rfl, rfl, rfl⟩
  case idle =>
    rintro rfl rfl
    rfl
  case overflow =>
    rintro rfl rfl hovf
    exact blockStep_overflow (s := u) w hdone hovf
  case process =>
    rintro rfl rfl hovf
    rw [blockStep_process (s := s.tick rest) w hdone hovf]
    exact ⟨fun hdata => processWord_of_isData (s := u) w ((isData_eq_true u).mpr hdata),
      fun hmode hgate => processWord_of_not_isData (s := u) w (isData_eq_false_of_mode_code hmode hgate)⟩

end Sys2Proof.Machine

/-! PROOF. The statement of 70_reset_and_hazards.md: a block that has not been reset refuses a word (R901). -/

namespace Sys2Proof.Machine

/-- R901: the refusal comes before the fault check of R806, so it does not depend on `ovf`. -/
theorem blockStep_wordBeforeReset (w : Word) {s : State} (hdone : s.resetDone = false) :
    blockStep false true w s = .refused .wordBeforeReset := by
  simp [blockStep, hdone]

/-- Settles O35: from text, bytes or the ports alike, the word meets the block's ports, and the block refuses it. -/
theorem wordBeforeResetIsRefused : Obligations.WordBeforeResetIsRefused := by
  intro s w hword hdone
  rw [step_eq_blockStep hword]
  exact blockStep_wordBeforeReset (s := stimulusTaken s) w hdone

end Sys2Proof.Machine

/-! PROOF. The round trip between words and instructions (R350, R360): the well-formed instructions are the ones the
decoder answers, UNKNOWN is what a table without the word's key answers, and `R_FUNCT_EXTRA` renames seven rows. -/

namespace Sys2Proof.Machine

/-! ### Decoding the words the encoder builds -/

/-- R330, R350: a register-format word other than the zero word is what `RFUNCT` holds at its funct. -/
theorem decode_registerWord (x : RFunctExtra) {rs rt rd shamt : RegIndex} {funct : BitVec 6}
    (hne : registerWord rs rt rd shamt funct ≠ 0x00000000#32) :
    decode x (registerWord rs rt rd shamt funct) =
      registerInstr (lookupKey (rfunctTable x) funct) rs rt rd shamt funct := by
  have hrun := runsNamed_of_lookupKey (x := x) (opcodeOf_registerWord ..) hne rfl
  simpa using hrun.1

theorem decode_registerWord_of_funct_ne_zero (x : RFunctExtra) (rs rt rd shamt : RegIndex) {funct : BitVec 6}
    (hfunct : funct ≠ 0x00#6 := by decide) :
    decode x (registerWord rs rt rd shamt funct) =
      registerInstr (lookupKey (rfunctTable x) funct) rs rt rd shamt funct :=
  decode_registerWord x (ne_zero_of_functOf_ne_zero (by simpa using hfunct))

/-- R332: a REGIMM word is what `REGIMM` holds at its `rt`. -/
theorem decode_regimmWord (x : RFunctExtra) (rs rt : RegIndex) (imm : BitVec 16) :
    decode x (immediateWord regimmOpcode rs rt imm) = regimmInstr (lookupKey regimmTable rt) rs rt imm := by
  have hrun := runsAs_of_regimm_lookupKey (x := x) (opcodeOf_immediateWord regimmOpcode rs rt imm) rfl
  simpa using hrun.1

/-- R331: any other immediate-format word is what `IOP` holds at its opcode. -/
theorem decode_immediateWord (x : RFunctExtra) {opcode : BitVec 6} (rs rt : RegIndex) (imm : BitVec 16)
    (hformat : formatOfOpcode opcode = .i := by decide) (hop : opcode ≠ regimmOpcode := by decide) :
    decode x (immediateWord opcode rs rt imm) =
      immediateInstr (lookupKey iopTable opcode) opcode rs rt imm := by
  have hrun := runsAs_of_iop_lookupKey (x := x) (w := immediateWord opcode rs rt imm)
    ((formatOf_immediateWord ..).trans hformat) (by simpa using hop) rfl
  simpa using hrun.1

/-- R333: a jump-format word is what its row of `JOP` names. -/
theorem decode_jumpWord (x : RFunctExtra) {opcode : BitVec 6} (m : Mnemonic) (target : BitVec 26)
    (hrow : (opcode, m) ∈ jopTable := by decide) : decode x (jumpWord opcode target) = jumpInstr m target := by
  have hrun := runsAs_of_jop_row (x := x) m (opcodeOf_jumpWord opcode target) hrow
  simpa using hrun.1

/-- R351: an SLL is well formed when its word is not NOP's. -/
theorem registerWord_sll_ne_zero {x : RFunctExtra} {rs rt rd shamt : RegIndex}
    (h : wellFormed x (.sll rs rt rd shamt) = true) :
    registerWord rs rt rd shamt 0x00#6 ≠ 0x00000000#32 := by
  intro hzero
  have hrs := congrArg rsOf hzero
  have hrt := congrArg rtOf hzero
  have hrd := congrArg rdOf hzero
  have hshamt := congrArg shamtOf hzero
  simp only [rsOf_registerWord, rtOf_registerWord, rdOf_registerWord, shamtOf_registerWord] at hrs hrt hrd hshamt
  rw [hrs, hrt, hrd, hshamt] at h
  exact Bool.false_ne_true h

/-- Settles O28: the decoder reads the encoder's key in the table of the instruction's format, and finds the row; an
UNKNOWN's key is in no row. -/
theorem decodeOfEncodeIsIdentity : Obligations.DecodeOfEncodeIsIdentity := by
  intro x i hwf
  cases i
  case nop => cases x <;> rfl
  case sll rs rt rd shamt =>
    exact (decode_registerWord x (registerWord_sll_ne_zero hwf)).trans (by cases x <;> rfl)
  case unknownR rs rt rd shamt funct =>
    have hkey : isKey (rfunctTable x) funct = false := by simpa [wellFormed] using hwf
    have hfunct : funct ≠ 0x00#6 := by
      rintro rfl
      cases x <;> exact absurd hkey (by decide)
    refine (decode_registerWord_of_funct_ne_zero x rs rt rd shamt hfunct).trans ?_
    rw [lookupKey_of_not_isKey hkey]
    rfl
  case mult | multu | div | divu | addu | subu | sltu =>
    cases x with
    | none => cases hwf
    | mips1 => exact decode_registerWord_of_funct_ne_zero ..
  case srl | sra | sllv | srlv | srav | jr | jalr | syscall | brk | mfhi | mthi | mflo | mtlo | add | sub | and | or
      | xor | nor | slt =>
    exact (decode_registerWord_of_funct_ne_zero ..).trans (by cases x <;> rfl)
  case bltz | bgez | bltzal | bgezal => exact decode_regimmWord ..
  case unknownRegimm rs rt imm =>
    have hkey : isKey regimmTable rt = false := by simpa [wellFormed] using hwf
    refine (decode_regimmWord x rs rt imm).trans ?_
    rw [lookupKey_of_not_isKey hkey]
    rfl
  case unknownI opcode rs rt imm =>
    simp only [wellFormed, Bool.and_eq_true, beq_iff_eq, bne_iff_ne, Bool.not_eq_true'] at hwf
    obtain ⟨⟨hformat, hop⟩, hkey⟩ := hwf
    refine (decode_immediateWord x rs rt imm hformat hop).trans ?_
    rw [lookupKey_of_not_isKey hkey]
    rfl
  case j => exact decode_jumpWord x .j _
  case jal => exact decode_jumpWord x .jal _
  case beq | bne | blez | bgtz | addi | addiu | slti | andi | ori | xori | lui | lb | lh | lw | lbu | lhu | sb | sh
      | sw =>
    exact decode_immediateWord ..

/-! ### The decoder answers well-formed instructions -/

/-- R10: a lookup answers the row of its key, or UNKNOWN where there is none. -/
theorem lookupKey_mem_or_not_isKey {n : Nat} (table : List (BitVec n × Mnemonic)) (k : BitVec n) :
    (k, lookupKey table k) ∈ table ∨ (isKey table k = false ∧ lookupKey table k = .unknown) := by
  cases hkey : isKey table k with
  | false => exact .inr ⟨rfl, lookupKey_of_not_isKey hkey⟩
  | true =>
    left
    induction table with
    | nil => simp [isKey] at hkey
    | cons row rest ih =>
      by_cases hk : k = row.1
      · simp [lookupKey, hk]
      · have hrest : isKey rest k = true := by simpa [isKey, hk] using hkey
        simp [lookupKey, hk, ih hrest]

/-- R330: but for SLL, which may be NOP's word, the instruction of a row is well formed whatever its fields. -/
theorem wellFormed_registerInstr_row (x : RFunctExtra) (rs rt rd shamt : RegIndex) (funct : BitVec 6) :
    ∀ row ∈ rfunctTable x, row = (0x00#6, .sll) ∨
      wellFormed x (registerInstr row.2 rs rt rd shamt funct) = true := by
  cases x <;> intro row hrow <;> fin_cases hrow <;> simp [registerInstr, wellFormed, hasExtra]

/-- R351, R426, R430: outside the NOP override a register-format word is a well-formed instruction. -/
theorem wellFormed_registerInstr_lookupKey (x : RFunctExtra) {w : Word} (hnop : nopOverride w = false) :
    wellFormed x (registerInstr (lookupKey (rfunctTable x) (functOf w)) (rsOf w) (rtOf w) (rdOf w) (shamtOf w)
      (functOf w)) = true := by
  obtain hrow | ⟨hkey, hunknown⟩ := lookupKey_mem_or_not_isKey (rfunctTable x) (functOf w)
  · obtain hsll | hwf := wellFormed_registerInstr_row x (rsOf w) (rtOf w) (rdOf w) (shamtOf w) (functOf w) _ hrow
    · obtain ⟨hfunct, hm⟩ := Prod.mk.inj hsll
      simp only [hm, registerInstr, wellFormed, Bool.not_eq_true']
      simpa [nopOverride, hfunct] using hnop
    · exact hwf
  · simp [hunknown, registerInstr, wellFormed, hkey]

theorem wellFormed_regimmInstr_lookupKey (x : RFunctExtra) (rs rt : RegIndex) (imm : BitVec 16) :
    wellFormed x (regimmInstr (lookupKey regimmTable rt) rs rt imm) = true := by
  obtain hrow | ⟨hkey, hunknown⟩ := lookupKey_mem_or_not_isKey regimmTable rt
  · have rows : ∀ row ∈ regimmTable, wellFormed x (regimmInstr row.2 rs rt imm) = true := by
      intro row hrow
      fin_cases hrow <;> rfl
    exact rows _ hrow
  · simp [hunknown, regimmInstr, wellFormed, hkey]

theorem wellFormed_immediateInstr_lookupKey (x : RFunctExtra) {opcode : BitVec 6} (rs rt : RegIndex)
    (imm : BitVec 16) (hformat : formatOfOpcode opcode = .i) (hop : opcode ≠ regimmOpcode) :
    wellFormed x (immediateInstr (lookupKey iopTable opcode) opcode rs rt imm) = true := by
  obtain hrow | ⟨hkey, hunknown⟩ := lookupKey_mem_or_not_isKey iopTable opcode
  · have rows : ∀ row ∈ iopTable, wellFormed x (immediateInstr row.2 opcode rs rt imm) = true := by
      intro row hrow
      fin_cases hrow <;> rfl
    exact rows _ hrow
  · simp [hunknown, immediateInstr, wellFormed, hkey, hformat, hop]

theorem wellFormed_jumpInstr (x : RFunctExtra) (m : Mnemonic) (target : BitVec 26) :
    wellFormed x (jumpInstr m target) = true := by
  cases m <;> rfl

/-- R350, R360: the decoder answers well-formed instructions only. -/
theorem wellFormed_decode (x : RFunctExtra) (w : Word) : wellFormed x (decode x w) = true := by
  unfold decode mnemonicOf
  cases hf : formatOf w with
  | r =>
    dsimp only
    split
    · rfl
    · rename_i hnop
      exact wellFormed_registerInstr_lookupKey x (Bool.eq_false_iff.mpr hnop)
  | j => exact wellFormed_jumpInstr ..
  | i =>
    dsimp only
    split
    · exact wellFormed_regimmInstr_lookupKey ..
    · rename_i hop
      exact wellFormed_immediateInstr_lookupKey x _ _ _ hf hop

/-- Settles O29: the decoder answers well-formed instructions, and the encoder inverts it. -/
theorem encodeOfDecodeIsIdentity : Obligations.EncodeOfDecodeIsIdentity :=
  fun x w => ⟨wellFormed_decode x w, encode_decode x w⟩

/-! ### UNKNOWN words -/

/-- R10, R360: a table whose rows are all named answers UNKNOWN for exactly the numbers that are no key of it. -/
theorem lookupKey_eq_unknown_iff {n : Nat} {table : List (BitVec n × Mnemonic)} {k : BitVec n}
    (named : ∀ row ∈ table, row.2 ≠ .unknown) :
    lookupKey table k = .unknown ↔ k.toNat ∉ table.map fun row => row.1.toNat := by
  rw [← isKey_eq_true, Bool.not_eq_true]
  refine ⟨fun hunknown => ?_, lookupKey_of_not_isKey⟩
  by_contra hkey
  exact lookupKey_ne_unknown named (Bool.not_eq_false _ ▸ hkey) hunknown

/-- R360, case a. -/
theorem mnemonicOf_eq_unknown_of_opcode_zero (x : RFunctExtra) {w : Word} (hop : opcodeOf w = 0x00#6) :
    mnemonicOf x w = .unknown ↔
      w ≠ 0x00000000#32 ∧ (functOf w).toNat ∉ (rfunctTable x).map fun row => row.1.toNat := by
  have named : ∀ row ∈ rfunctTable x, row.2 ≠ .unknown := by cases x <;> decide
  rw [mnemonicOf_of_opcode_zero x hop]
  by_cases hw : w = 0x00000000#32
  · simp [hw]
  · rw [if_neg hw, lookupKey_eq_unknown_iff named]
    simp [hw]

/-- R360, case b. -/
theorem mnemonicOf_eq_unknown_of_immediate (x : RFunctExtra) {w : Word} (hf : formatOf w = .i)
    (hop : opcodeOf w ≠ regimmOpcode) :
    mnemonicOf x w = .unknown ↔ (opcodeOf w).toNat ∉ iopTable.map fun row => row.1.toNat := by
  rw [mnemonicOf_of_immediate x hf hop, lookupKey_eq_unknown_iff (by decide)]

/-- R360, case c. -/
theorem mnemonicOf_eq_unknown_of_regimm (x : RFunctExtra) {w : Word} (hop : opcodeOf w = regimmOpcode) :
    mnemonicOf x w = .unknown ↔ (rtOf w).toNat ∉ regimmTable.map fun row => row.1.toNat := by
  rw [mnemonicOf_of_regimm x hop, lookupKey_eq_unknown_iff (by decide)]

/-- R333: a jump-format word always has a name. -/
theorem mnemonicOf_ne_unknown_of_jump (x : RFunctExtra) {w : Word} (hf : formatOf w = .j) :
    mnemonicOf x w ≠ .unknown := by
  simp only [mnemonicOf, hf]
  obtain hop | hop := (formatOfOpcode_eq_j _).mp hf <;> rw [hop] <;> decide

/-- R360: the words named UNKNOWN, by the keys of the tables. -/
theorem mnemonicOf_eq_unknown (x : RFunctExtra) (w : Word) :
    mnemonicOf x w = .unknown ↔
      (opcodeOf w = 0x00#6 ∧ w ≠ 0x00000000#32 ∧
        (functOf w).toNat ∉ (rfunctTable x).map fun row => row.1.toNat) ∨
      (formatOf w = .i ∧ opcodeOf w ≠ regimmOpcode ∧ (opcodeOf w).toNat ∉ iopTable.map fun row => row.1.toNat) ∨
      (opcodeOf w = regimmOpcode ∧ (rtOf w).toNat ∉ regimmTable.map fun row => row.1.toNat) := by
  cases hf : formatOf w with
  | r =>
    have hop : opcodeOf w = 0x00#6 := (formatOfOpcode_eq_r _).mp hf
    have hne : 0x00#6 ≠ regimmOpcode := by decide
    simp [mnemonicOf_eq_unknown_of_opcode_zero x hop, hop, hne]
  | j =>
    have hne : opcodeOf w ≠ 0x00#6 ∧ opcodeOf w ≠ regimmOpcode := by
      obtain hop | hop := (formatOfOpcode_eq_j _).mp hf <;> rw [hop] <;> decide
    simp [mnemonicOf_ne_unknown_of_jump x hf, hne]
  | i =>
    by_cases hop : opcodeOf w = regimmOpcode
    · have hne : regimmOpcode ≠ 0x00#6 := by decide
      simp [mnemonicOf_eq_unknown_of_regimm x hop, hop, hne]
    · have hne : opcodeOf w ≠ 0x00#6 := ((formatOfOpcode_eq_i _).mp hf).1
      simp [mnemonicOf_eq_unknown_of_immediate x hf hop, hop, hne]

/-- Settles O8: the keys are those of the tables' rows, and an UNKNOWN word runs as every decoded word does. -/
theorem unknownSpace : Obligations.UnknownSpace := by
  refine ⟨fun x w => ?_, by decide, by decide, by decide, fun x w s _ => meaningsRefineTheDecodeFunction x w s⟩
  cases x <;> exact mnemonicOf_eq_unknown _ w

/-! ### The two values of `R_FUNCT_EXTRA` -/

/-- R430: the instructions of the extra entries. -/
def extraMnemonics : List Mnemonic := [.mult, .multu, .div, .divu, .addu, .subu, .sltu]

/-- R430: with the extra entries a funct resolves as before, or to one of the seven where it did not resolve. -/
theorem lookupKey_rfunctTable_none_or_extra (k : BitVec 6) :
    lookupKey (rfunctTable .none) k = lookupKey (rfunctTable .mips1) k ∨
      (lookupKey (rfunctTable .none) k = .unknown ∧ lookupKey (rfunctTable .mips1) k ∈ extraMnemonics) := by
  revert k; decide

/-- R430: `R_FUNCT_EXTRA` changes no mnemonic but those of the seven, and those in the register format only. -/
theorem mnemonicOf_none_or_extra (w : Word) :
    mnemonicOf .none w = mnemonicOf .mips1 w ∨
      (formatOf w = .r ∧ mnemonicOf .none w = .unknown ∧ mnemonicOf .mips1 w ∈ extraMnemonics) := by
  cases hf : formatOf w with
  | r =>
    have hop : opcodeOf w = 0x00#6 := (formatOfOpcode_eq_r _).mp hf
    simp only [mnemonicOf_of_opcode_zero _ hop]
    by_cases hw : w = 0x00000000#32
    · simp [hw]
    · simpa [hw] using lookupKey_rfunctTable_none_or_extra (functOf w)
  | j => exact .inl (by simp only [mnemonicOf, hf])
  | i => exact .inl (by simp only [mnemonicOf, hf])

/-- R341: the seven have UNKNOWN's form. -/
theorem formFor_of_mem_extraMnemonics : ∀ m ∈ extraMnemonics, formFor .r m = formFor .r .unknown := by decide

/-- Settles O31: form and operands follow from the mnemonic's form, which the seven share with UNKNOWN. -/
theorem extraParameterOnlyRenames : Obligations.ExtraParameterOnlyRenames := by
  intro w
  obtain hsame | ⟨hf, hnone, hmips1⟩ := mnemonicOf_none_or_extra w
  · simp [decodeFields, hsame]
  · have hform := (formFor_of_mem_extraMnemonics _ hmips1).symm
    simp only [decodeFields, hf, hnone, hform, true_and]
    exact fun _ => hmips1

/-! ### Words written out -/

/-- Settles O9: by running the decoder on each word under each function table. -/
theorem wordsDecodeAsTheSpecSays : Obligations.WordsDecodeAsTheSpecSays := by
  intro x
  and_intros <;> cases x <;> decide

end Sys2Proof.Machine

/-! PROOF. The statements about runs (R650 to R653): the step of a presented word in one equation, the closed form of a
listing by its last word, and the invariant that a listing is in closed form, with what follows from it. -/

namespace Sys2Proof.Machine

/-! ### The step of a presented word, in one equation -/

/-- The state after a word is processed, as data or as code (R650). -/
def afterWord (w : Word) (s : State) : State :=
  if isData s then afterData w s else afterCode w (decodeFields s.params.rFunctExtra w) s

/-- The record a processed word emits (R650). -/
def wordRecord (w : Word) (s : State) : Record :=
  let d := decodeFields s.params.rFunctExtra w
  if isData s then .data s.addr w else .code s.addr w d.format d.mnem d.form d.operands

theorem afterWord_of_isData {s : State} (w : Word) (hdata : isData s = true) : afterWord w s = afterData w s :=
  if_pos hdata

theorem afterWord_of_not_isData {s : State} (w : Word) (hcode : isData s = false) :
    afterWord w s = afterCode w (decodeFields s.params.rFunctExtra w) s :=
  if_neg (Bool.eq_false_iff.mp hcode)

theorem processWord_eq_afterWord (w : Word) (s : State) : processWord w s = .next (afterWord w s) := by
  cases hdata : isData s with
  | true => rw [processWord_of_isData w hdata, afterWord_of_isData w hdata]
  | false =>
    rw [processWord_of_not_isData w hdata, afterWord_of_not_isData w hdata, meaningsRefineTheDecodeFunction]

/-- R650, R806: the step of a word presented to a block that is reset and below its top. -/
theorem step_eq_afterWord {s : State} {w : Word} (hword : presentedWord s = some w) (hdone : s.resetDone = true)
    (hovf : s.ovf = false) : step s = .next (afterWord w (stimulusTaken s)) := by
  rw [step_eq_processWord hword hdone hovf, processWord_eq_afterWord]

/-- R650, R806: a step that presents a word and answers a next state processed the word. -/
theorem eq_afterWord_of_step {s t : State} {w : Word} (h : step s = .next t) (hword : presentedWord s = some w) :
    s.resetDone = true ∧ s.ovf = false ∧ t = afterWord w (stimulusTaken s) := by
  rw [step_eq_blockStep hword] at h
  obtain ⟨hdone, hovf, hprocess⟩ := blockStep_word h
  rw [processWord_eq_afterWord] at hprocess
  injection hprocess with ht
  exact ⟨hdone, hovf, ht.symm⟩

@[simp] theorem stimulusTaken_listing (s : State) : (stimulusTaken s).listing = s.listing := rfl
@[simp] theorem stimulusTaken_pastListings (s : State) : (stimulusTaken s).pastListings = s.pastListings := rfl
@[simp] theorem stimulusTaken_pending (s : State) : (stimulusTaken s).pending = s.pending.tail := rfl

section AfterWord

variable (w : Word) (s : State)

@[simp] theorem afterWord_listing : (afterWord w s).listing = s.listing ++ [wordRecord w s] := by
  cases hdata : isData s <;> simp [afterWord, wordRecord, hdata]
@[simp] theorem afterWord_addr : (afterWord w s).addr = s.addr + 4#32 := by
  cases hdata : isData s <;> simp [afterWord, hdata]
@[simp] theorem afterWord_ovf : (afterWord w s).ovf = (s.ovf || passesTop s.addr) := by
  cases hdata : isData s <;> simp [afterWord, hdata]
@[simp] theorem afterWord_params : (afterWord w s).params = s.params := by
  cases hdata : isData s <;> simp [afterWord, hdata]
@[simp] theorem afterWord_resetDone : (afterWord w s).resetDone = s.resetDone := by
  cases hdata : isData s <;> simp [afterWord, hdata, afterData]
@[simp] theorem afterWord_pending : (afterWord w s).pending = s.pending := by
  cases hdata : isData s <;> simp [afterWord, hdata, afterData]
@[simp] theorem afterWord_pastListings : (afterWord w s).pastListings = s.pastListings := by
  cases hdata : isData s <;> simp [afterWord, hdata, afterData]
@[simp] theorem recordWord_wordRecord : recordWord (wordRecord w s) = w := by
  cases hdata : isData s <;> simp [wordRecord, hdata]
@[simp] theorem recordIsData_wordRecord : recordIsData (wordRecord w s) = isData s := by
  cases hdata : isData s <;> simp [wordRecord, hdata, recordIsData]

end AfterWord

/-! ### The closed form of a listing, by its last word -/

/-- R653: the first BREAK of a longer stream is the one there was, or else the new word. -/
theorem firstBreak_append (x : RFunctExtra) (ws : List Word) (w : Word) :
    firstBreak x (ws ++ [w]) =
      (firstBreak x ws).or (if (decodeFields x w).mnem = .brk then some ws.length else none) := by
  by_cases hbreak : (decodeFields x w).mnem = .brk <;> simp [firstBreak, List.findIdx?_append, hbreak]

theorem firstBreak_lt_length {x : RFunctExtra} {ws : List Word} {b : Nat} (h : firstBreak x ws = some b) :
    b < ws.length :=
  (List.findIdx?_eq_some_iff_getElem.mp h).1

theorem splitIsData_eq_true {p : Params} {ws : List Word} {k : Nat} :
    splitIsData p ws k = true ↔
      ∃ b, firstBreak p.rFunctExtra ws = some b ∧ b < k ∧ p.dataThreshold.toNat ≤ p.codeBase.toNat + 4 * k := by
  cases hb : firstBreak p.rFunctExtra ws <;> simp [splitIsData, hb]

/-- R652: whether a word is data depends on the words before it only. -/
theorem splitIsData_append_of_le (p : Params) (ws : List Word) (w : Word) {k : Nat} (hk : k ≤ ws.length) :
    splitIsData p (ws ++ [w]) k = splitIsData p ws k := by
  rw [splitIsData, splitIsData, firstBreak_append]
  cases hb : firstBreak p.rFunctExtra ws with
  | some b => rfl
  | none =>
    by_cases hbreak : (decodeFields p.rFunctExtra w).mnem = .brk
    · have hnot : ¬ ws.length < k := by omega
      simp [hbreak, hnot]
    · simp [hbreak]

/-- R652: the word after a stream is data when the stream holds a BREAK and the word's address has reached the
threshold. -/
theorem splitIsData_length {p : Params} {ws : List Word} :
    splitIsData p ws ws.length = true ↔
      (firstBreak p.rFunctExtra ws).isSome = true ∧ p.dataThreshold.toNat ≤ p.codeBase.toNat + 4 * ws.length := by
  rw [splitIsData_eq_true, Option.isSome_iff_exists]
  constructor
  · rintro ⟨b, hb, _, hreached⟩
    exact ⟨⟨b, hb⟩, hreached⟩
  · rintro ⟨⟨b, hb⟩, hreached⟩
    exact ⟨b, hb, firstBreak_lt_length hb, hreached⟩

theorem splitRecord_append_of_le (p : Params) (ws : List Word) (w v : Word) {k : Nat} (hk : k ≤ ws.length) :
    splitRecord p (ws ++ [w]) k v = splitRecord p ws k v := by
  simp only [splitRecord, splitIsData_append_of_le p ws w hk]

/-- R651, R653: one more word is one more record; the records before it stay. -/
theorem splitListing_append (p : Params) (ws : List Word) (w : Word) :
    splitListing p (ws ++ [w]) = splitListing p ws ++ [splitRecord p ws ws.length w] := by
  have hbefore : ws.mapIdx (splitRecord p (ws ++ [w])) = ws.mapIdx (splitRecord p ws) :=
    List.mapIdx_eq_mapIdx_iff.mpr fun _ hk => splitRecord_append_of_le p ws w _ (Nat.le_of_lt hk)
  rw [splitListing, List.mapIdx_concat, hbefore, splitRecord_append_of_le p ws w w le_rfl, splitListing]

/-- R652: once a record is data, a BREAK has been listed and the threshold reached. -/
theorem splitIsData_length_of_data_mem {p : Params} {ws : List Word} {r : Record} (hr : r ∈ splitListing p ws)
    (hdata : recordIsData r = true) : splitIsData p ws ws.length = true := by
  obtain ⟨k, hk, rfl⟩ := List.mem_mapIdx.mp hr
  have hsplit : splitIsData p ws k = true := by
    by_contra hcode
    simp [splitRecord, hcode, recordIsData] at hdata
  obtain ⟨b, hb, _, hreached⟩ := splitIsData_eq_true.mp hsplit
  exact splitIsData_length.mpr ⟨by simp [hb], by omega⟩

@[simp] theorem wordsOf_append (l : List Record) (r : Record) : wordsOf (l ++ [r]) = wordsOf l ++ [recordWord r] := by
  simp [wordsOf]

@[simp] theorem wordsOf_length (l : List Record) : (wordsOf l).length = l.length := by simp [wordsOf]

/-! ### A block that tracks its listing -/

/-- The counter as a number, while it has not passed its top (R651). -/
theorem TracksListing.addr_toNat {s : State} (h : TracksListing s) (hovf : s.ovf = false) :
    s.addr.toNat = s.params.codeBase.toNat + 4 * s.listing.length := by
  have hbelow : ¬ 2 ^ 32 ≤ s.params.codeBase.toNat + 4 * s.listing.length := by
    rw [← h.ovf_iff, hovf]
    decide
  rw [h.addr_eq, BitVec.toNat_add, BitVec.toNat_ofNat]
  omega

/-- R652, R653: the tracker calls the next word data exactly when the closed form does. -/
theorem TracksListing.isData_eq_splitIsData {s : State} (h : TracksListing s) (hovf : s.ovf = false) :
    isData s = splitIsData s.params (wordsOf s.listing) (wordsOf s.listing).length := by
  have hgate : splitIsData s.params (wordsOf s.listing) (wordsOf s.listing).length = true ↔
      s.sentinel = true ∧ s.params.dataThreshold.toNat ≤ s.addr.toNat := by
    rw [splitIsData_length, h.sentinel_iff, h.addr_toNat hovf, wordsOf_length]
  rw [Bool.eq_iff_iff, isData_eq_true, hgate, or_iff_right_iff_imp, h.mode_iff, ← hgate]
  rintro ⟨r, hr, hdata⟩
  rw [h.listing_eq] at hr
  exact splitIsData_length_of_data_mem hr hdata

/-- R651, R653: the record of the next word is the next one of the closed form. -/
theorem TracksListing.wordRecord_eq_splitRecord {s : State} (h : TracksListing s) (hovf : s.ovf = false) (w : Word) :
    wordRecord w s = splitRecord s.params (wordsOf s.listing) (wordsOf s.listing).length w := by
  have haddr : BitVec.ofNat 32 (s.params.codeBase.toNat + 4 * (wordsOf s.listing).length) = s.addr := by
    rw [wordsOf_length, ← h.addr_toNat hovf, BitVec.ofNat_toNat, BitVec.setWidth_eq]
  simp only [wordRecord, splitRecord, haddr, h.isData_eq_splitIsData hovf]

/-- A block that has just been reset tracks the empty listing (R120). -/
theorem tracksListing_of_fresh {s : State} (hlisting : s.listing = []) (haddr : s.addr = s.params.codeBase)
    (hsentinel : s.sentinel = false) (hmode : s.mode = .code) (hovf : s.ovf = false) : TracksListing s := by
  have hbase : s.params.codeBase.toNat < 2 ^ 32 := s.params.codeBase.isLt
  constructor <;> simp [hlisting, haddr, hsentinel, hmode, hovf, wordsOf, splitListing, firstBreak] <;> omega

theorem tracksListing_resetBlock (s : State) : TracksListing (resetBlock s) :=
  tracksListing_of_fresh rfl rfl rfl rfl rfl

theorem TracksListing.tick {s : State} (h : TracksListing s) (rest : List Stimulus) : TracksListing (s.tick rest) :=
  ⟨h.listing_eq, h.addr_eq, h.below_top, h.ovf_iff, h.sentinel_iff, h.mode_iff⟩

theorem TracksListing.stimulusTaken {s : State} (h : TracksListing s) : TracksListing (stimulusTaken s) :=
  ⟨h.listing_eq, h.addr_eq, h.below_top, h.ovf_iff, h.sentinel_iff, h.mode_iff⟩

/-- R102: after a word, the sentinel says whether a BREAK stands among the words up to it; a BREAK that is data
follows another one. -/
theorem TracksListing.afterWord_sentinel_iff {s : State} (h : TracksListing s) (hovf : s.ovf = false) (w : Word) :
    (afterWord w s).sentinel = true ↔
      (firstBreak s.params.rFunctExtra (wordsOf s.listing ++ [w])).isSome = true := by
  rw [firstBreak_append, Option.isSome_or, Bool.or_eq_true, ← h.sentinel_iff]
  cases hdata : isData s with
  | true =>
    have hsplit := h.isData_eq_splitIsData hovf
    rw [hdata, eq_comm, splitIsData_length, ← h.sentinel_iff] at hsplit
    simp [afterWord_of_isData w hdata, hsplit.1]
  | false =>
    rw [afterWord_of_not_isData w hdata, afterCode_sentinel, sentinelAfter_eq_true]
    by_cases hbreak : (decodeFields s.params.rFunctExtra w).mnem = .brk <;> simp [hbreak]

/-- R103: a word leaves the mode DATA exactly when it was data. -/
theorem afterWord_mode_eq_data (w : Word) (s : State) : (afterWord w s).mode = .data ↔ isData s = true := by
  cases hdata : isData s with
  | true => simp [afterWord_of_isData w hdata]
  | false =>
    have hmode : s.mode ≠ .data := fun hm => by simp [isData, hm] at hdata
    simp [afterWord_of_not_isData w hdata, hmode]

/-- R103: after a word, the mode says whether a record of the listing is data. -/
theorem TracksListing.afterWord_mode_iff {s : State} (h : TracksListing s) (w : Word) :
    (afterWord w s).mode = .data ↔ ∃ r ∈ (afterWord w s).listing, recordIsData r = true := by
  have hbefore : (∃ r ∈ s.listing, recordIsData r = true) → isData s = true := fun hr =>
    (isData_eq_true s).mpr (.inl (h.mode_iff.mpr hr))
  rw [afterWord_mode_eq_data, afterWord_listing]
  constructor
  · exact fun hdata => ⟨wordRecord w s, by simp, by simpa using hdata⟩
  · rintro ⟨r, hr, hrdata⟩
    obtain hr | hr := List.mem_append.mp hr
    · exact hbefore ⟨r, hr, hrdata⟩
    · rwa [List.mem_singleton.mp hr, recordIsData_wordRecord] at hrdata

/-- R650 to R653: processing a word keeps the listing in closed form, and the state elements those of the listing. -/
theorem TracksListing.afterWord {s : State} (h : TracksListing s) (hovf : s.ovf = false) (w : Word) :
    TracksListing (afterWord w s) := by
  have haddr := h.addr_toNat hovf
  have hlt := s.addr.isLt
  have hlength : (Machine.afterWord w s).listing.length = s.listing.length + 1 := by simp
  have hwords : wordsOf (Machine.afterWord w s).listing = wordsOf s.listing ++ [w] := by simp
  constructor
  case listing_eq =>
    rw [hwords, afterWord_params, splitListing_append, ← h.listing_eq, ← h.wordRecord_eq_splitRecord hovf,
      afterWord_listing]
  case addr_eq =>
    rw [hlength, afterWord_params, afterWord_addr, h.addr_eq, Nat.mul_add, BitVec.ofNat_add, BitVec.add_assoc]
  case below_top =>
    rw [hlength, afterWord_params]
    omega
  case ovf_iff =>
    rw [hlength, afterWord_params, afterWord_ovf, hovf, Bool.false_or, passesTop_eq_true]
    omega
  case sentinel_iff =>
    rw [hwords, afterWord_params]
    exact h.afterWord_sentinel_iff hovf w
  case mode_iff => exact h.afterWord_mode_iff w

/-! ### The invariant of the machine -/

theorem Inv.of_tick {s : State} (h : Inv s) (rest : List Stimulus) : Inv (s.tick rest) :=
  ⟨fun hdone => (h.tracks hdone).tick rest, h.past⟩

/-- R900: a reset starts an empty listing, and the one it ends was in closed form. -/
theorem Inv.of_resetBlock {s : State} (h : Inv s) : Inv (resetBlock s) := by
  refine ⟨fun _ => tracksListing_resetBlock s, fun l hl => ?_⟩
  rw [resetBlock_pastListings] at hl
  cases hdone : s.resetDone with
  | false => exact h.past l (by simpa [hdone] using hl)
  | true =>
    rw [hdone, if_pos rfl, List.mem_append, List.mem_singleton] at hl
    obtain hl | rfl := hl
    · exact h.past l hl
    · exact (h.tracks hdone).listing_eq

theorem Inv.of_afterWord {s : State} (h : Inv s) (hdone : s.resetDone = true) (hovf : s.ovf = false) (w : Word) :
    Inv (afterWord w (stimulusTaken s)) := by
  refine ⟨fun _ => (h.tracks hdone).stimulusTaken.afterWord hovf w, fun l hl => ?_⟩
  rw [afterWord_pastListings] at hl
  rw [afterWord_params]
  exact h.past l hl

/-- Settles O49: a reset starts a listing, an idle step changes none, and a word adds the next record of the closed
form. -/
theorem stepKeepsTheListingInvariant : Obligations.StepKeepsTheListingInvariant := by
  intro s t hinv h
  obtain ⟨_, _, rfl⟩ | ⟨_, _, rfl⟩ | ⟨w, _, _, hword, _⟩ := step_cases h
  · exact (hinv.of_tick _).of_resetBlock
  · exact hinv.of_tick _
  · obtain ⟨hdone, hovf, rfl⟩ := eq_afterWord_of_step h hword
    exact hinv.of_afterWord hdone hovf w

/-- Settles O50: the reset state has an empty listing and no earlier ones. -/
theorem resetHasTheListingInvariant : Obligations.ResetHasTheListingInvariant :=
  ⟨fun _ => tracksListing_of_fresh rfl rfl rfl rfl rfl, fun _ hl => absurd hl List.not_mem_nil⟩

/-- Settles O51: the record is data when the tracker says so, and the tracker agrees with the closed form. -/
theorem twoConditionGating : Obligations.TwoConditionGating := by
  intro s t w hinv h hword
  obtain ⟨hdone, hovf, rfl⟩ := eq_afterWord_of_step h hword
  have htracks := hinv.tracks hdone
  have hgate : isData s = true ↔ (firstBreak s.params.rFunctExtra (wordsOf s.listing)).isSome = true ∧
      s.params.dataThreshold.toNat ≤ s.addr.toNat := by
    rw [htracks.isData_eq_splitIsData hovf, splitIsData_length, htracks.addr_toNat hovf, wordsOf_length]
  rw [← hgate, afterWord_listing, stimulusTaken_listing]
  cases hdata : isData s with
  | true => simp [wordRecord, hdata]
  | false =>
    refine ⟨by simp [wordRecord, hdata], fun _ => ⟨decodeFields s.params.rFunctExtra w, ?_⟩⟩
    simp [wordRecord, hdata]

/-! ### Runs -/

theorem run_succ_of_next {M : Host.Core} {s t : M.State} (n : Nat) (h : M.step s = .next t) :
    M.run (n + 1) s = M.run n t := by
  rw [Host.Core.run, h]

theorem run_succ_of_fault {M : Host.Core} {s : M.State} {f : M.Fault} (n : Nat) (h : M.step s = .fault f) :
    M.run (n + 1) s = .fault f := by
  rw [Host.Core.run, h]

/-- R120: a reset step, from any state. -/
theorem step_reset_of_pending {s : State} {v : Bool} {w : Word} {rest : List Stimulus}
    (hp : s.pending = .ports true v w :: rest) : step s = .next (resetBlock (s.tick rest)) := by
  rw [step_of_ports hp]
  rfl

/-- R651, R912: a block that tracks its listing takes words, one a step, as long as their addresses stay below the
top. -/
theorem run_presentAll (ws : List Word) {s : State} {rest : List Stimulus} (htracks : TracksListing s)
    (hdone : s.resetDone = true) (hp : s.pending = presentAll ws ++ rest)
    (hbelow : s.params.codeBase.toNat + 4 * (s.listing.length + ws.length) < 2 ^ 32 + 4) :
    ∃ t, core.run ws.length s = .next t ∧ TracksListing t ∧ wordsOf t.listing = wordsOf s.listing ++ ws ∧
      t.params = s.params ∧ t.pending = rest := by
  induction ws generalizing s with
  | nil => exact ⟨s, rfl, htracks, by simp, rfl, hp⟩
  | cons w ws ih =>
    have hp' : s.pending = .ports false true w :: (presentAll ws ++ rest) := hp
    have hword : presentedWord s = some w := by simp [presentedWord, hp']
    have hovf : s.ovf = false := by
      rw [Bool.eq_false_iff, Ne, htracks.ovf_iff]
      rw [List.length_cons] at hbelow
      omega
    obtain ⟨t, hrun, ht, hwords, hparams, hrest⟩ := ih (s := afterWord w (stimulusTaken s))
      (htracks.stimulusTaken.afterWord hovf w) (by simpa using hdone) (by simp [hp']) (by simp at hbelow ⊢; omega)
    refine ⟨t, ?_, ht, ?_, ?_, hrest⟩
    · exact (run_succ_of_next (M := core) _ (step_eq_afterWord hword hdone hovf)).trans hrun
    · simp [hwords]
    · simp [hparams]

/-- Settles O52: the reset leaves a block that tracks the empty listing, and the words are taken one after another. -/
theorem runListsTheClosedForm : Obligations.RunListsTheClosedForm := by
  intro s v w ws rest hp hbelow
  obtain ⟨t, hrun, htracks, hwords, hparams, hrest⟩ := run_presentAll ws (s := resetBlock (s.tick _))
    (tracksListing_resetBlock _) rfl rfl (by simpa using hbelow)
  have hwords : wordsOf t.listing = ws := hwords
  have hparams : t.params = s.params := hparams
  have hlength : t.listing.length = ws.length := by rw [← hwords, wordsOf_length]
  refine ⟨t, ?_, ?_, hrest, ?_⟩
  · exact (run_succ_of_next (M := core) _ (step_reset_of_pending hp)).trans hrun
  · rw [htracks.listing_eq, hwords, hparams]
  · rw [htracks.addr_eq, hlength, hparams]

end Sys2Proof.Machine

/-! PROOF. The statements about the host's side of the ports and about the steps that process no word: the text of a
word and base-2 parsing (R8, R663, R803), records and bytes (R202, R910), the three faults (R801), the idle step (D17),
the reset state (R120) and the word that is placed to run next. -/

namespace Sys2Proof.Machine

/-! ### A word's text, bit by bit -/

theorem isBitChar_eq_true {c : Char} : isBitChar c = true ↔ c = '0' ∨ c = '1' := by simp [isBitChar]

theorem bitChar_eq_one {b : Bool} : bitChar b = '1' ↔ b = true := by cases b <;> decide

/-- A character from `0` and `1` is that of the bit it is read as. -/
theorem bitChar_beq_one {c : Char} (h : isBitChar c = true) : bitChar (c == '1') = c := by
  obtain rfl | rfl := isBitChar_eq_true.mp h <;> decide

theorem bitsValue_append (t : Text) (c : Char) :
    bitsValue (t ++ [c]) = 2 * bitsValue t + if c == '1' then 1 else 0 := by
  simp [bitsValue]

/-- R8: counted from the end of the text, character `i` is bit `i` of the text's value. -/
theorem testBit_bitsValue (t : Text) (i : Nat) :
    (bitsValue t).testBit i = (t.reverse[i]? == some '1') := by
  induction t using List.reverseRecOn generalizing i with
  | nil => simp [bitsValue]
  | append_singleton t c ih =>
    rw [bitsValue_append, List.reverse_append]
    cases i with
    | zero => by_cases hc : c = '1' <;> simp [Nat.testBit_zero, hc]
    | succ i =>
      have hhalf : (2 * bitsValue t + if c == '1' then 1 else 0) / 2 = bitsValue t := by split <;> omega
      rw [Nat.testBit_succ, hhalf, ih]
      rfl

/-- R8: bit `31 - i` of the word of 32 characters is character `i`. -/
theorem getLsbD_ofNat_bitsValue {t : Text} (hlength : t.length = 32) {i : Nat} (hi : i < 32) :
    (BitVec.ofNat 32 (bitsValue t)).getLsbD (31 - i) = (t[i]? == some '1') := by
  have hchar : t.reverse[31 - i]? = t[i]? := by
    rw [List.getElem?_reverse (by omega)]
    congr 1
    omega
  have hin : 31 - i < 32 := by omega
  rw [BitVec.getLsbD_ofNat, testBit_bitsValue, hchar, decide_eq_true hin, Bool.true_and]

theorem getElem?_rawBits (w : Word) {i : Nat} (hi : i < 32) :
    (rawBits w)[i]? = some (bitChar (w.getLsbD (31 - i))) := by
  simp [rawBits, hi]

/-! ### Parsing a record -/

/-- R803: the records that are read. -/
theorem parseRecord_eq_some {t : Text} {w : Word} :
    parseRecord t = some w ↔ (t.length = 32 ∧ t.all isBitChar = true) ∧ BitVec.ofNat 32 (bitsValue t) = w := by
  simp [parseRecord]

/-- R803: the records that fail. -/
theorem parseRecord_eq_none {t : Text} :
    parseRecord t = none ↔ t.length ≠ 32 ∨ ∃ c ∈ t, c ≠ '0' ∧ c ≠ '1' := by
  simp only [parseRecord, ite_eq_right_iff, reduceCtorEq, imp_false, not_and_or, List.all_eq_true, isBitChar_eq_true,
    not_forall, not_or, exists_prop]

/-- R8, R663: parsing reads a word's text back. -/
theorem parseRecord_rawBits (w : Word) : parseRecord (rawBits w) = some w := by
  refine parseRecord_eq_some.mpr ⟨⟨rawBits_length w, rawBits_all_isBitChar w⟩, ?_⟩
  apply BitVec.eq_of_getLsbD_eq
  intro i hi
  have hback : 31 - (31 - i) = i := by omega
  have hbit := getLsbD_ofNat_bitsValue (rawBits_length w) (i := 31 - i) (by omega)
  rw [getElem?_rawBits w (by omega), hback] at hbit
  rw [hbit, Bool.eq_iff_iff, beq_iff_eq, Option.some_inj, bitChar_eq_one]

/-- R8, R663: a text that is read is the text of the word it is read as. -/
theorem rawBits_of_parseRecord {t : Text} {w : Word} (h : parseRecord t = some w) : rawBits w = t := by
  obtain ⟨⟨hlength, hchars⟩, rfl⟩ := parseRecord_eq_some.mp h
  apply List.ext_getElem ((rawBits_length _).trans hlength.symm)
  intro i hi hi'
  have hraw := getElem?_rawBits (BitVec.ofNat 32 (bitsValue t)) (i := i) (by omega)
  rw [getLsbD_ofNat_bitsValue hlength (by omega), List.getElem?_eq_getElem hi, List.getElem?_eq_getElem hi',
    Option.some_inj] at hraw
  rw [hraw]
  exact bitChar_beq_one (List.all_eq_true.mp hchars _ (List.getElem_mem hi'))

/-- Settles O57: bit by bit, a word's text and base-2 parsing invert each other. -/
theorem wordTextRoundTrips : Obligations.WordTextRoundTrips := by
  refine ⟨parseRecord_rawBits, fun w i hi => ?_, fun _ => parseRecord_eq_none, fun _ _ => rawBits_of_parseRecord⟩
  rw [getElem?_rawBits w hi, Option.some_inj, bitChar_eq_one]

/-! ### Taking a record -/

theorem step_of_record {s : State} {txt : Text} {rest : List Stimulus} (hp : s.pending = .record txt :: rest) :
    step s = takeRecord txt (s.tick rest) := by
  simp only [step, stepPending, hp, presentStimulus]

/-- R910 item 4: a blank record is skipped. -/
theorem takeRecord_of_blank {txt : Text} (s : State) (h : trimRecord txt = []) : takeRecord txt s = .next s := by
  simp [takeRecord, h]

/-- R803: a malformed record fails the run. -/
theorem takeRecord_of_malformed {txt : Text} (s : State) (h : trimRecord txt ≠ [])
    (hparse : parseRecord (trimRecord txt) = none) :
    takeRecord txt s = .fault (.malformedRecord (s.recordsTaken + 1) (trimRecord txt)) := by
  simp [takeRecord, h, hparse]

/-- R910 item 6: any other record is a word at the ports. -/
theorem takeRecord_of_word {txt : Text} {w : Word} (s : State) (h : trimRecord txt ≠ [])
    (hparse : parseRecord (trimRecord txt) = some w) :
    takeRecord txt s = blockStep false true w { s with recordsTaken := s.recordsTaken + 1 } := by
  simp [takeRecord, h, hparse]

theorem presentedWord_of_record {s : State} {txt : Text} {rest : List Stimulus} (hp : s.pending = .record txt :: rest)
    (h : trimRecord txt ≠ []) : presentedWord s = parseRecord (trimRecord txt) := by
  simp [presentedWord, hp, h]

theorem presentedWord_of_ports {s : State} {w : Word} {rest : List Stimulus}
    (hp : s.pending = .ports false true w :: rest) : presentedWord s = some w := by
  simp only [presentedWord, hp]

theorem presentedWord_of_bytes {s : State} {b0 b1 b2 b3 : BitVec 8} {rest : List Stimulus}
    (hp : s.pending = .bytes b0 b1 b2 b3 :: rest) :
    presentedWord s = some (wordOfBytes s.params.hostByteOrder b0 b1 b2 b3) := by
  simp only [presentedWord, hp]

/-- R202, R910: two states that present one word, and agree once the stimulus is taken, step alike. -/
theorem step_eq_step {s u : State} {w : Word} (hs : presentedWord s = some w) (hu : presentedWord u = some w)
    (h : stimulusTaken s = stimulusTaken u) : step s = step u := by
  rw [step_eq_blockStep hs, step_eq_blockStep hu, h]

/-- Settles O48: a record by the three cases of taking one; text and bytes by the word they present. -/
theorem hostInputBecomesWords : Obligations.HostInputBecomesWords := by
  refine ⟨fun s txt rest hp => ⟨fun hblank => ?_, fun hne hparse => ?_, fun w hraw => ?_⟩,
    fun s b0 b1 b2 b3 rest hp => ⟨fun hbig => ?_, fun hlittle => ?_⟩⟩
  · rw [step_of_record hp, takeRecord_of_blank _ hblank]
    rfl
  · rw [step_of_record hp, takeRecord_of_malformed _ hne hparse]
    rfl
  · have hne : trimRecord txt ≠ [] := by
      rw [hraw, ← List.length_pos_iff, rawBits_length]
      decide
    have hword : presentedWord s = some w := by rw [presentedWord_of_record hp hne, hraw, parseRecord_rawBits]
    exact step_eq_step hword (presentedWord_of_ports rfl) (by simp [stimulusTaken, hp])
  · have hword := presentedWord_of_bytes hp
    rw [hbig] at hword
    exact step_eq_step hword (presentedWord_of_ports rfl) (by simp [stimulusTaken, hp])
  · have hword := presentedWord_of_bytes hp
    rw [hlittle] at hword
    exact step_eq_step hword (presentedWord_of_ports rfl) (by simp [stimulusTaken, hp])

/-! ### Faults -/

/-- R802: the block itself faults only when its counter has passed its top. -/
theorem blockStep_word_eq_fault {w : Word} {s : State} {f : Fault} :
    blockStep false true w s = .fault f ↔
      s.resetDone = true ∧ s.ovf = true ∧ f = .addressOverflow s.addr s.ovf := by
  cases hdone : s.resetDone with
  | false => simp [blockStep_wordBeforeReset w hdone]
  | true =>
    cases hovf : s.ovf with
    | true => simp [blockStep_overflow w hdone hovf, addressOverflow, hovf, eq_comm]
    | false => simp [blockStep_process w hdone hovf, processWord_eq_afterWord]

theorem step_word_eq_fault {s : State} {w : Word} {f : Fault} (hword : presentedWord s = some w) :
    step s = .fault f ↔ s.resetDone = true ∧ s.ovf = true ∧ f = .addressOverflow s.addr s.ovf := by
  rw [step_eq_blockStep hword, blockStep_word_eq_fault]
  rfl

/-- The next record is malformed, and `f` is its fault (R801, R803). -/
def MalformedNext (s : State) (f : Fault) : Prop :=
  ∃ txt rest, s.pending = .record txt :: rest ∧ trimRecord txt ≠ [] ∧ parseRecord (trimRecord txt) = none ∧
    f = .malformedRecord (s.recordsTaken + 1) (trimRecord txt)

/-- The host's next access fails, and `f` is its fault (R801). -/
def AccessFailsNext (s : State) (f : Fault) : Prop :=
  ∃ which rest, s.pending = .accessFailure which :: rest ∧ f = .inputAccess which

/-- R801: a step that presents no word faults when the host does. -/
theorem step_noWord_eq_fault {s : State} {f : Fault} (hword : presentedWord s = none) :
    step s = .fault f ↔ MalformedNext s f ∨ AccessFailsNext s f := by
  cases hp : s.pending with
  | nil => simp [MalformedNext, AccessFailsNext, step, stepPending, hp]
  | cons e rest =>
    cases e with
    | ports rst v w =>
      have hstep := step_of_ports hp
      cases rst with
      | true => simp [MalformedNext, AccessFailsNext, hp, hstep, blockStep]
      | false =>
        cases v with
        | true => simp [presentedWord_of_ports hp] at hword
        | false => simp [MalformedNext, AccessFailsNext, hp, hstep, blockStep]
    | record txt =>
      rw [step_of_record hp]
      by_cases hblank : trimRecord txt = []
      · simp [MalformedNext, AccessFailsNext, hp, hblank, takeRecord_of_blank]
      · rw [presentedWord_of_record hp hblank] at hword
        simp [MalformedNext, AccessFailsNext, hp, hblank, hword, takeRecord_of_malformed, eq_comm (a := f)]
    | bytes b0 b1 b2 b3 => simp [presentedWord_of_bytes hp] at hword
    | accessFailure which =>
      simp [MalformedNext, AccessFailsNext, step, stepPending, hp, presentStimulus, eq_comm (a := f)]

/-- The host does not fail in a step that presents a word. -/
theorem not_hostFails_of_word {s : State} {w : Word} (hword : presentedWord s = some w) (f : Fault) :
    ¬ (MalformedNext s f ∨ AccessFailsNext s f) := by
  rintro (⟨txt, rest, hp, hne, hparse, _⟩ | ⟨which, rest, hp, _⟩)
  · simp [presentedWord_of_record hp hne, hparse] at hword
  · simp [presentedWord, hp] at hword

/-- Settles O47: a step that presents a word faults when the block does, and any other when the host does. -/
theorem faultsAreExactlyTheThree : Obligations.FaultsAreExactlyTheThree := by
  intro s f
  simp only [← parseRecord_eq_none]
  change _ ↔ _ ∨ MalformedNext s f ∨ AccessFailsNext s f
  cases hword : presentedWord s with
  | some w => simp [step_word_eq_fault hword, not_hostFails_of_word hword f]
  | none => simp [step_noWord_eq_fault hword]

/-! ### Steps that process no word -/

/-- Settles O33: the fields of `State.reset` by definition, and those the model adds by the reset step. -/
theorem resetStateIsTheResetValues : Obligations.ResetStateIsTheResetValues := by
  refine ⟨⟨rfl, rfl, rfl, rfl, rfl, rfl⟩, fun s t hreset h => ?_⟩
  rw [step_reset h hreset]
  exact ⟨resetBlock_pastListings _, rfl, rfl⟩

/-- Settles O34: the block answers the state it is given, in which only the stimulus has been taken. -/
theorem idleStepChangesNothing : Obligations.IdleStepChangesNothing := by
  refine ⟨fun s w rest hp => ⟨?_, ?_⟩, fun s hp => ?_⟩
  · rw [step_of_ports hp]
    rfl
  · simp [outPorts, idlePorts]
  · simp [step, stepPending, hp, State.tick]

/-! ### The word that is placed to run next -/

/-- R650: the placed word is met in CODE, with the sentinel clear where the threshold is reached. -/
theorem isData_presentNext (w : Word) (s : State) : isData (presentNext w s) = false := by
  have hgate : isData (presentNext w s) = (s.sentinel && !thresholdReached s && thresholdReached s) := rfl
  rw [hgate, Bool.and_assoc, Bool.not_and_self, Bool.and_false]

/-- A state that would process a word as code is changed only by the word that is placed. -/
theorem presentNext_eq {s : State} (w : Word) (hdone : s.resetDone = true) (hovf : s.ovf = false)
    (hmode : s.mode = .code) (hgate : s.sentinel = false ∨ s.addr.toNat < s.params.dataThreshold.toNat) :
    presentNext w s = { s with pending := .ports false true w :: s.pending } := by
  have hsentinel : (s.sentinel && !thresholdReached s) = s.sentinel := by
    obtain h | h := hgate <;> simp [thresholdReached, h]
  rw [presentNext, hsentinel, ← hdone, ← hovf, ← hmode]

/-- Settles O39: the placed word is at the ports of a block that is reset, below its top and in CODE. -/
theorem fetchedWordRunsNext : Obligations.FetchedWordRunsNext := by
  refine ⟨fun s nbits w i hdecode hextra => ?_, fun s nbits w => presentNext_eq _⟩
  have hi : decode .mips1 (tableWord nbits w) = i := by
    simp only [decodeTableWord, Option.ite_none_right_eq_some, Option.some_inj] at hdecode
    exact hdecode.2
  have hcode : isData (stimulusTaken (s.withFetchWord nbits w)) = false := isData_presentNext (tableWord nbits w) s
  refine ⟨stimulusTaken (s.withFetchWord nbits w), ?_, rfl, rfl, rfl, rfl⟩
  rw [step_eq_processWord (presentedWord_of_ports (w := tableWord nbits w) rfl) rfl rfl,
    processWord_of_not_isData _ hcode, ← hi, ← hextra]
  rfl

end Sys2Proof.Machine

/-! PROOF. The statement that the listing is a function of the stream after a reset (R206): two blocks that differ in
what the host holds and in earlier runs only stay alike in every step. -/

namespace Sys2Proof.Machine

/-- Two blocks whose four state elements, parameters, listing and counted records agree (R100, R206). The stimuli
still to present, the listings of earlier runs and the draw counter may differ. -/
structure SameBlock (s u : State) : Prop where
  addr_eq : s.addr = u.addr
  sentinel_eq : s.sentinel = u.sentinel
  mode_eq : s.mode = u.mode
  ovf_eq : s.ovf = u.ovf
  params_eq : s.params = u.params
  resetDone_eq : s.resetDone = u.resetDone
  listing_eq : s.listing = u.listing
  recordsTaken_eq : s.recordsTaken = u.recordsTaken

/-- Alike blocks that have been reset, with `p` and `q` still to be presented to them. -/
structure AlikeBefore (p q : List Stimulus) (s u : State) : Prop where
  same : SameBlock s u
  done : s.resetDone = true
  pending_left : s.pending = p
  pending_right : u.pending = q

/-- Two outcomes that agree: next states in the relation `R`, or the same fault. -/
def OutcomesAgree (R : State → State → Prop) (o o' : Host.Outcome State Fault Refusal) : Prop :=
  (∃ t t', o = .next t ∧ o' = .next t' ∧ R t t') ∨ (∃ f, o = .fault f ∧ o' = .fault f)

theorem SameBlock.tick {s u : State} (h : SameBlock s u) (p q : List Stimulus) :
    SameBlock (s.tick p) (u.tick q) :=
  ⟨h.addr_eq, h.sentinel_eq, h.mode_eq, h.ovf_eq, h.params_eq, h.resetDone_eq, h.listing_eq, h.recordsTaken_eq⟩

/-- R120: what a block holds before a reset does not matter, but for its parameters. -/
theorem sameBlock_resetBlock {s u : State} (hparams : s.params = u.params) :
    SameBlock (resetBlock s) (resetBlock u) :=
  ⟨congrArg Params.codeBase hparams, rfl, rfl, rfl, hparams, rfl, rfl, rfl⟩

theorem SameBlock.isData_eq {s u : State} (h : SameBlock s u) : isData s = isData u := by
  simp only [isData, thresholdReached, h.mode_eq, h.sentinel_eq, h.params_eq, h.addr_eq]

theorem SameBlock.afterWord {s u : State} (h : SameBlock s u) (w : Word) :
    SameBlock (afterWord w s) (afterWord w u) := by
  have hdata := h.isData_eq
  obtain ⟨haddr, hsentinel, hmode, hovf, hparams, hdone, hlisting, hrecords⟩ := h
  cases hs : isData s with
  | true =>
    rw [afterWord_of_isData w hs, afterWord_of_isData w (hdata ▸ hs)]
    constructor <;> simp [afterData, *]
  | false =>
    rw [afterWord_of_not_isData w hs, afterWord_of_not_isData w (hdata ▸ hs)]
    constructor <;> simp [afterCode, *]

theorem SameBlock.countRecord {s u : State} (h : SameBlock s u) :
    SameBlock { s with recordsTaken := s.recordsTaken + 1 } { u with recordsTaken := u.recordsTaken + 1 } :=
  ⟨h.addr_eq, h.sentinel_eq, h.mode_eq, h.ovf_eq, h.params_eq, h.resetDone_eq, h.listing_eq,
    congrArg (· + 1) h.recordsTaken_eq⟩

/-- R206, R806: alike blocks that have been reset answer alike at their ports. -/
theorem AlikeBefore.blockStep {p q : List Stimulus} {s u : State} (h : AlikeBefore p q s u) (rst v : Bool)
    (w : Word) : OutcomesAgree (AlikeBefore p q) (blockStep rst v w s) (blockStep rst v w u) := by
  have hdone : u.resetDone = true := h.same.resetDone_eq ▸ h.done
  cases rst with
  | true =>
    exact .inl ⟨_, _, rfl, rfl, sameBlock_resetBlock h.same.params_eq, rfl, h.pending_left, h.pending_right⟩
  | false =>
    cases v with
    | false => exact .inl ⟨_, _, rfl, rfl, h⟩
    | true =>
      have hovf := h.same.ovf_eq
      cases hs : s.ovf with
      | true =>
        refine .inr ⟨_, blockStep_overflow w h.done hs, (blockStep_overflow w hdone (hovf ▸ hs)).trans ?_⟩
        rw [addressOverflow, h.same.addr_eq, hovf]
      | false =>
        rw [blockStep_process w h.done hs, blockStep_process w hdone (hovf ▸ hs)]
        refine .inl ⟨_, _, processWord_eq_afterWord w s, processWord_eq_afterWord w u, h.same.afterWord w, ?_, ?_, ?_⟩
        · rw [afterWord_resetDone, h.done]
        · rw [afterWord_pending, h.pending_left]
        · rw [afterWord_pending, h.pending_right]

/-- R206, R910: and to whatever the host does next. -/
theorem AlikeBefore.presentStimulus {p q : List Stimulus} {s u : State} (h : AlikeBefore p q s u) (e : Stimulus) :
    OutcomesAgree (AlikeBefore p q) (presentStimulus e s) (presentStimulus e u) := by
  cases e with
  | ports rst v w => exact h.blockStep rst v w
  | record txt =>
    simp only [Machine.presentStimulus]
    by_cases hblank : trimRecord txt = []
    · exact .inl ⟨_, _, takeRecord_of_blank s hblank, takeRecord_of_blank u hblank, h⟩
    · cases hparse : parseRecord (trimRecord txt) with
      | none =>
        refine .inr ⟨_, takeRecord_of_malformed s hblank hparse, ?_⟩
        rw [takeRecord_of_malformed u hblank hparse, h.same.recordsTaken_eq]
      | some w =>
        rw [takeRecord_of_word s hblank hparse, takeRecord_of_word u hblank hparse]
        have hcounted := AlikeBefore.mk h.same.countRecord h.done h.pending_left h.pending_right
        exact hcounted.blockStep false true w
  | bytes b0 b1 b2 b3 =>
    simp only [Machine.presentStimulus, h.same.params_eq]
    exact h.blockStep false true _
  | accessFailure which => exact .inr ⟨_, rfl, rfl⟩

theorem step_of_pending {s : State} {e : Stimulus} {rest : List Stimulus} (hp : s.pending = e :: rest) :
    step s = presentStimulus e (s.tick rest) := by
  simp only [step, stepPending, hp]

/-- R206: alike blocks that are given the same stimulus step alike. -/
theorem AlikeBefore.step {e : Stimulus} {p q : List Stimulus} {s u : State}
    (h : AlikeBefore (e :: p) (e :: q) s u) : OutcomesAgree (AlikeBefore p q) (step s) (step u) := by
  rw [step_of_pending h.pending_left, step_of_pending h.pending_right]
  have htaken : AlikeBefore p q (s.tick p) (u.tick q) := ⟨h.same.tick p q, h.done, rfl, rfl⟩
  exact htaken.presentStimulus e

/-- The listings of two states are equal. -/
def SameListing (t t' : State) : Prop := t.listing = t'.listing

/-- R206: alike blocks before the same stream run alike as long as it lasts. -/
theorem AlikeBefore.run {es rest rest' : List Stimulus} {s u : State} {n : Nat}
    (h : AlikeBefore (es ++ rest) (es ++ rest') s u) (hn : n ≤ es.length) :
    OutcomesAgree SameListing (core.run n s) (core.run n u) := by
  induction n generalizing es s u with
  | zero => exact .inl ⟨s, u, rfl, rfl, h.same.listing_eq⟩
  | succ n ih =>
    obtain _ | ⟨e, es⟩ := es
    · cases hn
    obtain ⟨t, t', hs, hu, halike⟩ | ⟨f, hs, hu⟩ := AlikeBefore.step h
    · have hrun := ih halike (Nat.le_of_succ_le_succ hn)
      rwa [← run_succ_of_next (M := core) n hs, ← run_succ_of_next (M := core) n hu] at hrun
    · exact .inr ⟨f, run_succ_of_fault (M := core) n hs, run_succ_of_fault (M := core) n hu⟩

/-- Settles O53: the reset makes the two blocks alike, and alike blocks run alike. -/
theorem sameStreamSameListing : Obligations.SameStreamSameListing := by
  intro s u v w es rest rest' n hparams hs hu hn hpos
  obtain ⟨n, rfl⟩ := Nat.exists_eq_succ_of_ne_zero (Nat.ne_of_gt hpos)
  have halike : AlikeBefore (es ++ rest) (es ++ rest') (resetBlock (s.tick (es ++ rest)))
      (resetBlock (u.tick (es ++ rest'))) := ⟨sameBlock_resetBlock hparams, rfl, rfl, rfl⟩
  have hrun := halike.run (Nat.le_of_succ_le_succ hn)
  rwa [← run_succ_of_next (M := core) n (step_reset_of_pending hs),
    ← run_succ_of_next (M := core) n (step_reset_of_pending hu)] at hrun

end Sys2Proof.Machine

/-! PROOF. The statement that the output ports show the emitted record (R112, R114): every operand of a decoded word
fits the value port of its slot, so the slot shows it. -/

namespace Sys2Proof.Machine

/-- The value of an operand fits a slot's 32-bit value port, signed or unsigned as its kind says (R114). -/
def OperandFits : Operand → Prop
  | .reg _ => True
  | .imm v => -2 ^ 31 ≤ v ∧ v < 2 ^ 31
  | .uimm v => v < 2 ^ 32
  | .mem off _ => -2 ^ 31 ≤ off ∧ off < 2 ^ 31
  | .addr v => v < 2 ^ 32

theorem toInt_ofInt_of_fits {v : Int} (h : -2 ^ 31 ≤ v ∧ v < 2 ^ 31) : (BitVec.ofInt 32 v).toInt = v :=
  BitVec.toInt_ofInt_eq_self (by decide) h.1 h.2

theorem toNat_ofNat_of_fits {v : Nat} (h : v < 2 ^ 32) : (BitVec.ofNat 32 v).toNat = v := by
  rw [BitVec.toNat_ofNat, Nat.mod_eq_of_lt h]

/-- R114: a slot shows the operand that is put on it, or that it is unused. -/
theorem slotShows_slotPorts (draws : Nat) (regPort valPort : FreePort) (o : Option Operand)
    (hfits : ∀ op ∈ o, OperandFits op) : SlotShows (slotPorts draws regPort valPort o) o := by
  cases o with
  | none => rfl
  | some op =>
    have hop := hfits op rfl
    cases op with
    | reg n => exact ⟨rfl, rfl⟩
    | imm v => exact ⟨rfl, toInt_ofInt_of_fits hop⟩
    | uimm v => exact ⟨rfl, toNat_ofNat_of_fits hop⟩
    | mem off base => exact ⟨rfl, rfl, toInt_ofInt_of_fits hop⟩
    | addr v => exact ⟨rfl, toNat_ofNat_of_fits hop⟩

theorem simm_fits (v : BitVec 16) : -2 ^ 31 ≤ simm v ∧ simm v < 2 ^ 31 := by
  have hlow := v.le_toInt
  have hhigh := v.toInt_lt
  rw [simm_eq_toInt]
  omega

/-- R310 to R312, R340: every operand the multiplexer routes fits. -/
theorem operandFits_of_mem_mux (form : Form) (w : Word) : ∀ op ∈ mux form w, OperandFits op := by
  have hreg (n : RegIndex) : OperandFits (.reg n) := trivial
  have hshamt : OperandFits (.uimm (shamtOf w).toNat) := (shamtOf w).isLt.trans (by decide)
  have huimm : OperandFits (.uimm (uimm (imm16Of w))) := (imm16Of w).isLt.trans (by decide)
  have himm : OperandFits (.imm (simm (imm16Of w))) := simm_fits _
  have hmem : OperandFits (.mem (simm (imm16Of w)) (rsOf w)) := simm_fits _
  have haddr : OperandFits (.addr (jaddr (target26Of w))) := (jaddr_lt _).trans (by decide)
  cases form <;> simp [mux, hreg, hshamt, huimm, himm, hmem, haddr]

/-- R114: no form has more operands than there are slots. -/
theorem mux_length_le (form : Form) (w : Word) : (mux form w).length ≤ 3 := by
  cases form <;> simp [mux]

theorem slotShows_mux (draws : Nat) (regPort valPort : FreePort) (form : Form) (w : Word) (k : Nat) :
    SlotShows (slotPorts draws regPort valPort (mux form w)[k]?) (mux form w)[k]? :=
  slotShows_slotPorts _ _ _ _ fun op hop => operandFits_of_mem_mux form w op (List.mem_of_getElem? hop)

/-- R112: with `ovf` clear the ports that every accepted word drives hold it and the state before the step. -/
theorem outPorts_of_accepted {s : State} (w : Word) (hovf : s.ovf = false) :
    let p := outPorts s false true w
    p.outValid = true ∧ p.outFault = false ∧ p.outAddr = s.addr ∧ p.outWord = w ∧ p.stAddr = s.addr ∧
      p.stSentinel = s.sentinel ∧ (p.stMode = true ↔ s.mode = .data) ∧ p.stOvf = s.ovf ∧ p.outKind = isData s := by
  cases hdata : isData s with
  | true =>
    rw [outPorts_of_isData w hovf hdata]
    simp [OutPorts.withFields, processedPorts, idlePorts, hovf, hdata]
  | false =>
    rw [outPorts_of_not_isData w hovf (by simp [hdata])]
    simp [OutPorts.withDecoded, OutPorts.withFields, processedPorts, idlePorts, hovf, hdata]

/-- Settles O54: the ports of R112 are driven from the record the step emits, and each slot shows its operand. -/
theorem portsShowTheRecord : Obligations.PortsShowTheRecord := by
  intro s t w rest hp h
  obtain ⟨_, hovf, rfl⟩ := eq_afterWord_of_step h (presentedWord_of_ports hp)
  obtain ⟨hvalid, hfault, haddr, hword, hstAddr, hstSentinel, hstMode, hstOvf, hkind⟩ := outPorts_of_accepted w hovf
  refine ⟨hvalid, hfault, haddr, hword, hstAddr, hstSentinel, hstMode, hstOvf,
    wordRecord w (stimulusTaken s), afterWord_listing .., ?_⟩
  cases hdata : isData s with
  | true =>
    simp only [wordRecord, isData_stimulusTaken, hdata, if_true]
    exact ⟨hkind.trans hdata, haddr.symm, hword.symm⟩
  | false =>
    have hlength : (decodeFields s.params.rFunctExtra w).operands.length ≤ 3 := mux_length_le ..
    simp only [wordRecord, isData_stimulusTaken, hdata, Bool.false_eq_true, if_false]
    refine ⟨hkind.trans hdata, haddr.symm, hword.symm, ?_⟩
    rw [outPorts_of_not_isData w hovf (by simp [hdata])]
    exact ⟨rfl, rfl, rfl, (BitVec.toNat_ofNat ..).trans (Nat.mod_eq_of_lt (by omega)), hlength,
      slotShows_mux .., slotShows_mux .., slotShows_mux ..⟩

end Sys2Proof.Machine
